-- ==== Sys2Proof/Word.lean ====
section
/-! DEFINITION. The two word widths of the block: the byte (spec/00_scope.md R10, P10) and the 16-bit command word
(P11; spec/30_encoding.md R70). Every value is unsigned (R12). -/

namespace Sys2Proof

/-- Every transferred byte, codec operand and codec result (00_scope R10, P10). -/
abbrev Byte := BitVec 8

/-- A command word `CMD[15:0]` (30_encoding R70). -/
abbrev CommandWord := BitVec 16

end Sys2Proof
end

