-- ==== Sys2Proof/Config.lean ====
section
/-! DEFINITION. What the spec leaves to an implementation or to the bus environment. A constant declared `opaque` here
has no body: no proof can see its value, so a statement that mentions it holds whatever it is.

The parameters P5 and P9 of spec/00_scope.md R10, which have a default, are fields of `Machine.Params` instead
(log entry 8). The constants P7 and P8 are in Machine/Operands.lean. -/

namespace Sys2Proof

/-- An acknowledgment bit on the wire (40_bus_transport R109, R115). -/
inductive Ack where
  | ack
  | nack
  deriving DecidableEq, Repr, Inhabited

/-- The two decode modes that DECODE_TENS_MASK selects (41_bcd_codec R142). -/
inductive DecodeMode where
  /-- Mask 0x7: the source's behaviour, the default. -/
  | legacy
  /-- Mask 0xF: taken only when a model is configured for it. -/
  | corrected
  deriving DecidableEq, Repr

/-- P1, BUS_CLOCK_DIVISOR (00_scope R10): open, no value and no width given. INIT copies it to CFG_DIV (log entry 7). -/
opaque Config.busClockDivisor : Nat

/-- P2, INIT_SETTLE_DELAY (00_scope R10): open; no rule depends on it (40_bus_transport R102). -/
opaque Config.initSettleDelay : Nat

/-- P3, STOP_RELEASE_DELAY (00_scope R10): open; no rule depends on it (40_bus_transport R107). -/
opaque Config.stopReleaseDelay : Nat

/-- P4, RX_DELAY (00_scope R10): open; no rule depends on it. Whether it is long enough is the draw `rxReady`. -/
opaque Config.rxDelay : Nat

/-- P6, MASTER_RX_ACK (00_scope R10): open; read by the wire projection alone (40_bus_transport R115). -/
opaque Config.masterRxAck : Ack

/-- Free value (log entry 4). The n-th draw of "the bus environment signals completion now" for a wait in START_WAIT
or TX_WAIT (40_bus_transport R104, R109). It may never be true: that is the hang of R112. -/
opaque Config.envCompletes : Nat → Bool

/-- Free value (log entry 4). The slave's acknowledgment bit of a write completion (40_bus_transport R109). -/
opaque Config.slaveAck : Nat → Ack

/-- Free value (log entry 4). RXBYTE, the byte the slave drives in a receive cycle (40_bus_transport R111). -/
opaque Config.rxByte : Nat → Byte

/-- Free value (log entry 4). "The receive was latched within RX_DELAY" (40_bus_transport R111). -/
opaque Config.rxReady : Nat → Bool

/-- Free value (log entry 4). "The byte lands in RXD after the read" (40_bus_transport R111). -/
opaque Config.rxLate : Nat → Bool

end Sys2Proof
end

