-- ==== Sys2Proof/Syntax.lean ====
section
/-! DEFINITION. The commands of the block, one constructor per row of spec/opcode_table.json (spec/30_encoding.md R73),
and the shape of a command word (R70, R71). -/

namespace Sys2Proof

/-- A legal command. `writeByte`, `bcdEncode` and `bcdDecode` carry their byte operand `imm8` (30_encoding R72). -/
inductive Instr where
  /-- INIT, `initialize()`. -/
  | init
  /-- START, `beginTransaction()`. -/
  | start
  /-- RESTART, `restart()`. -/
  | restart
  /-- STOP, `endTransaction()`. -/
  | stop
  /-- WRITE_BYTE, `writeByte(value)`: the byte to transmit. -/
  | writeByte (b : Byte)
  /-- READ_BYTE, `readByte() -> byte`. -/
  | readByte
  /-- BCD_ENCODE, `encode(value)`: the decimal value. -/
  | bcdEncode (v : Byte)
  /-- BCD_DECODE, `decode(byte)`: the packed byte. -/
  | bcdDecode (b : Byte)
  deriving DecidableEq, Repr

/-- The two formats of a command word (30_encoding R71). -/
inductive Format where
  /-- No operand: `imm8` must be 0. -/
  | z
  /-- A byte operand in `imm8`. -/
  | b
  deriving DecidableEq, Repr

/-- The three fields of a command word (30_encoding R70): `op` is bits 15..12, `rsv` bits 11..8, `imm8` bits 7..0. -/
structure CommandFields where
  op : BitVec 4
  rsv : BitVec 4
  imm8 : Byte
  deriving DecidableEq, Repr

/-- One row of the opcode map (30_encoding R73): a word belongs to the row when it agrees with `pattern` under `mask`. -/
structure OpcodeRow where
  mnemonic : String
  format : Format
  pattern : CommandWord
  mask : CommandWord
  deriving DecidableEq, Repr

end Sys2Proof
end

