-- ==== Sys2Proof/WellFormed.lean ====
section
/-! DEFINITION. When the fields of a command word form a legal command (spec/30_encoding.md R73 to R75). An `Instr`
carries its operand as a byte, so every `Instr` is well formed; what can be ill formed is a word. -/

namespace Sys2Proof

/-- The format of an assigned opcode, `none` for a reserved one (30_encoding R71, R73, R75). -/
def CommandFields.format? (f : CommandFields) : Option Format :=
  match f.op.toNat with
  | 1 => some .z
  | 2 => some .z
  | 3 => some .z
  | 4 => some .z
  | 5 => some .b
  | 6 => some .z
  | 8 => some .b
  | 9 => some .b
  | _ => none

/-- Check 1: the opcode is assigned (30_encoding R75). -/
def CommandFields.opAssigned (f : CommandFields) : Bool := f.format?.isSome

/-- Check 2: the reserved field is 0 (30_encoding R74). -/
def CommandFields.rsvZero (f : CommandFields) : Bool := f.rsv == 0

/-- Check 3: a format Z word has `imm8 = 0` (30_encoding R74). -/
def CommandFields.operandZero (f : CommandFields) : Bool := f.format? != some .z || f.imm8 == 0

/-- A legal command word's fields: all three checks. -/
def CommandFields.wellFormed (f : CommandFields) : Bool := f.opAssigned && f.rsvZero && f.operandZero

end Sys2Proof
end

