-- ==== Sys2Proof/Decode.lean ====
section
/-! DEFINITION. The decoder of spec/30_encoding.md R76, total on all 65536 command words and refusing by name; after it the
opcode map of R73 and the encoder written from it. -/

namespace Sys2Proof

/-- Why a command word is illegal; each is the fault ILLEGAL_COMMAND (60_exceptions R201). -/
inductive Illegal where
  /-- The opcode is 0x0, 0x7 or 0xA to 0xF (30_encoding R75). -/
  | reservedOpcode
  /-- `rsv ≠ 0` (30_encoding R74). -/
  | reservedField
  /-- `imm8 ≠ 0` in format Z (30_encoding R74). -/
  | operandNotZero
  deriving DecidableEq, Repr

/-- What the decoder answers. -/
inductive Decoded where
  | legal (i : Instr)
  | illegal (why : Illegal)
  deriving DecidableEq, Repr

/-- The fields of a command word (30_encoding R70). -/
def fieldsOf (w : CommandWord) : CommandFields :=
  { op := w.extractLsb' 12 4, rsv := w.extractLsb' 8 4, imm8 := w.extractLsb' 0 8 }

/-- The command an opcode names, with the operand if it is of format B; `none` for a reserved opcode
(30_encoding R73, R75). -/
def commandOf (op : BitVec 4) (imm8 : Byte) : Option Instr :=
  match op.toNat with
  | 1 => some .init
  | 2 => some .start
  | 3 => some .restart
  | 4 => some .stop
  | 5 => some (.writeByte imm8)
  | 6 => some .readByte
  | 8 => some (.bcdEncode imm8)
  | 9 => some (.bcdDecode imm8)
  | _ => none

/-- The format of a command (30_encoding R71). -/
def Instr.format : Instr → Format
  | .init => .z
  | .start => .z
  | .restart => .z
  | .stop => .z
  | .writeByte _ => .b
  | .readByte => .z
  | .bcdEncode _ => .b
  | .bcdDecode _ => .b

/-- `decode` of 30_encoding R76, its three tests in the spec's order. -/
def decode (w : CommandWord) : Decoded :=
  match commandOf (fieldsOf w).op (fieldsOf w).imm8 with
  | none => .illegal .reservedOpcode
  | some i =>
    if (fieldsOf w).rsv ≠ 0 then .illegal .reservedField
    else if i.format = .z ∧ (fieldsOf w).imm8 ≠ 0 then .illegal .operandNotZero
    else .legal i

/-- The command the decoder reads, if the word is legal. -/
def Decoded.instr? : Decoded → Option Instr
  | .legal i => some i
  | .illegal _ => none

/-- The command in a word given as a number, bit 0 the least significant (the host's question). A command is one
16-bit word (30_encoding R70), so nothing longer decodes. -/
def decodeTableWord (nbits w : Nat) : Option Instr :=
  if nbits ≤ 16 then (decode (BitVec.ofNat 16 (w % 2 ^ nbits))).instr? else none

/-- The opcode map (30_encoding R73), row by row. -/
def opcodeTable : List OpcodeRow :=
  [ { mnemonic := "INIT", format := .z, pattern := 0x1000, mask := 0xFFFF },
    { mnemonic := "START", format := .z, pattern := 0x2000, mask := 0xFFFF },
    { mnemonic := "RESTART", format := .z, pattern := 0x3000, mask := 0xFFFF },
    { mnemonic := "STOP", format := .z, pattern := 0x4000, mask := 0xFFFF },
    { mnemonic := "WRITE_BYTE", format := .b, pattern := 0x5000, mask := 0xFF00 },
    { mnemonic := "READ_BYTE", format := .z, pattern := 0x6000, mask := 0xFFFF },
    { mnemonic := "BCD_ENCODE", format := .b, pattern := 0x8000, mask := 0xFF00 },
    { mnemonic := "BCD_DECODE", format := .b, pattern := 0x9000, mask := 0xFF00 } ]

/-- The word belongs to the row (30_encoding R73, R76). -/
def OpcodeRow.hits (r : OpcodeRow) (w : CommandWord) : Bool := w &&& r.mask == r.pattern

/-- The mnemonic of a command (30_encoding R73). -/
def Instr.mnemonic : Instr → String
  | .init => "INIT"
  | .start => "START"
  | .restart => "RESTART"
  | .stop => "STOP"
  | .writeByte _ => "WRITE_BYTE"
  | .readByte => "READ_BYTE"
  | .bcdEncode _ => "BCD_ENCODE"
  | .bcdDecode _ => "BCD_DECODE"

/-- The fields of a command's word, `op` from the map of 30_encoding R73, the must-be-zero fields 0 (R71). -/
def Instr.fields : Instr → CommandFields
  | .init => { op := 0x1, rsv := 0, imm8 := 0 }
  | .start => { op := 0x2, rsv := 0, imm8 := 0 }
  | .restart => { op := 0x3, rsv := 0, imm8 := 0 }
  | .stop => { op := 0x4, rsv := 0, imm8 := 0 }
  | .writeByte b => { op := 0x5, rsv := 0, imm8 := b }
  | .readByte => { op := 0x6, rsv := 0, imm8 := 0 }
  | .bcdEncode v => { op := 0x8, rsv := 0, imm8 := v }
  | .bcdDecode b => { op := 0x9, rsv := 0, imm8 := b }

/-- A command is well formed when the fields of its word are: true of every `Instr`, whose operand is a byte. -/
def Instr.wellFormed (i : Instr) : Bool := i.fields.wellFormed

/-- The word with the given fields (30_encoding R70). -/
def CommandFields.word (f : CommandFields) : CommandWord := f.op ++ f.rsv ++ f.imm8

/-- The command word of a command. -/
def encode (i : Instr) : CommandWord := i.fields.word

end Sys2Proof
end

