-- ==== Sys2Proof/Machine/State.lean ====
section
/-! DEFINITION. The state of the machine as plain data: the block's own eleven elements (spec/10_state.md R20), the host's
position and pending steps (R30, R34), the bus environment (spec/42_transactions.md R166) and the parameters with a default
(spec/00_scope.md R10). INVENTORY.md lists each with its rule and reset value. -/

namespace Sys2Proof.Machine

/-- The reasons the machine stands still: the six fault codes of 60_exceptions R201. Each is a MODEL fault (R200), which
the real block never signals. A command, a completion step or a host read that raises one takes a next state in which
FAULT holds it; every step after that answers `fault` with it (R202). All are safe: they remove runs the real block might
complete, and make claims about such programs unprovable rather than false (92_eei_decisions D5). -/
inductive Fault where
  /-- Code 1. Raised by the host's issue step for a word that is no command (30_encoding R74, R75). Safe. -/
  | illegalCommand
  /-- Code 2. Raised by START, RESTART, STOP, WRITE_BYTE and READ_BYTE issued while INIT = 0. Safe. -/
  | notInitialized
  /-- Code 3. Raised by INIT issued while INIT = 1. Safe. -/
  | reinit
  /-- Code 4. Raised by a bus command issued in a phase that 40_bus_transport R114 marks FRAMING. Safe. -/
  | framing
  /-- Code 5. Raised by the read completion when nothing was latched in time nor ever before (40_bus_transport R111). Safe. -/
  | unlatchedRead
  /-- Code 6. Raised by the host's result read while RESV = 0 (60_exceptions R213). Safe. -/
  | resUnwritten
  deriving DecidableEq, Repr

/-- Reasons a step is refused. No meaning of this model refuses; the constructor is the host's fixed name. -/
inductive Refusal where
  /-- Raised by `exec` alone, for a command that has no meaning yet. Safe. No arm raises it now. -/
  | notModelled (mnemonic : String)
  deriving DecidableEq, Repr

/-- BUSY, the command in flight (10_state R22). -/
inductive Busy where
  /-- NONE: the host may issue. -/
  | none
  /-- INIT_DELAY: the settling delay; the master lifts it. -/
  | initDelay
  /-- START_WAIT: waiting for condition-complete; the bus environment lifts it. -/
  | startWait
  /-- TX_WAIT: waiting for transmission-complete; the bus environment lifts it. -/
  | txWait
  /-- RX_DELAY: the fixed receive delay; the master lifts it. -/
  | rxDelay
  /-- STOP_DELAY: the release delay; the master lifts it. -/
  | stopDelay
  deriving DecidableEq, Repr

/-- PHASE, where the current transaction stands (10_state R23). -/
inductive Phase where
  /-- IDLE: no transaction. -/
  | idle
  /-- ADDR: the next byte is the address byte. -/
  | addr
  /-- WR: the master is transmitting. -/
  | wr
  /-- RD: the next operation is the byte read. -/
  | rd
  /-- RD_DONE: one byte has been read in this read phase. -/
  | rdDone
  deriving DecidableEq, Repr

/-- A bus event (10_state R28). -/
inductive BusEvent where
  | start
  | restart
  | stop
  | write (b : Byte)
  | read
  deriving DecidableEq, Repr

/-- One step of the host's own program (10_state R34): it issues a command word, or reads the result register
(60_exceptions R213). -/
inductive HostStep where
  | issue (w : CommandWord)
  | readResult
  deriving DecidableEq, Repr

/-- Which bus environment the block is attached to. -/
inductive Env where
  /-- Any environment: each completion, acknowledgment and received byte is a free draw (40_bus_transport R104, R109,
  R111). -/
  | unconstrained
  /-- An environment that never takes a completion step: the hang of 40_bus_transport R112, 60_exceptions R207
  (log entry 18). Its other draws are free. -/
  | silent
  /-- The reference slave of 42_transactions R166. -/
  | reference
  deriving DecidableEq, Repr

/-- The reference slave (42_transactions R166). Only `Env.reference` reads or changes it. -/
structure Chip where
  /-- REG[0..255]: (offset, byte) pairs, offsets strictly rising and no byte 0; a register not listed holds 0. -/
  reg : List Host.Cell
  /-- The register pointer; `none` where R166 leaves it unspecified, and at reset (DESIGN CHOICE, log entry 20). -/
  ptr : Option Byte
  /-- What the chip changes by itself between transactions (20_memory R57, 70_reset_and_hazards R246): the (offset, byte)
  changes that land after the next stop, then after the one after it, and so on (log entry 13). -/
  clock : List (List (Byte × Byte))
  deriving DecidableEq, Repr

/-- The parameters of 00_scope R10 that have a default; fixed for a whole run (log entry 8). -/
structure Params where
  /-- P5, RX_DELAY_SUFFICIENT. -/
  rxDelaySufficient : Bool
  /-- P9, DECODE_TENS_MASK. -/
  decodeMode : DecodeMode
  deriving DecidableEq, Repr

/-- The machine: block, host, bus environment and parameters. -/
@[ext]
structure State where
  /-- INIT: the controller is configured and enabled (10_state R21). -/
  init : Bool
  /-- BUSY (10_state R22). -/
  busy : Busy
  /-- PHASE (10_state R23). -/
  phase : Phase
  /-- TXD, the transmit register (10_state R24). -/
  txd : Byte
  /-- RXD, the receive latch (10_state R25). -/
  rxd : Byte
  /-- RXV: RXD holds a byte latched since reset (10_state R25). -/
  rxv : Bool
  /-- RES, the result register (10_state R26). -/
  res : Byte
  /-- RESV: RES has been written since reset (10_state R26). -/
  resv : Bool
  /-- CFG_DIV, the bus clock divisor (10_state R27). -/
  cfgDiv : Nat
  /-- TRACE, every bus event since reset, oldest first (10_state R28). -/
  trace : List BusEvent
  /-- FAULT: `none` is 0, `some f` the first fault (10_state R29); its 3-bit code is `State.faultPort`. -/
  fault : Option Fault
  /-- HPC, the number of commands accepted (10_state R30). -/
  hpc : Nat
  /-- The steps the host has still to take, the next one first (10_state R30, R34; log entry 1). -/
  host : List HostStep
  /-- Which bus environment is attached (00_scope R9). -/
  env : Env
  /-- The reference slave (42_transactions R166). -/
  chip : Chip
  /-- The parameters with a default (00_scope R10). -/
  params : Params
  /-- The MODEL's own: how many draws the environment has made, the index of the next free value (log entry 4). -/
  draws : Nat
  deriving DecidableEq, Repr

/-- The machine right after reset (70_reset_and_hazards R240). TXD, RXD, RES and CFG_DIV, which R240 leaves unspecified,
are 0 (DESIGN CHOICE, log entry 3). No program is loaded (log entry 1), the bus environment is any (R166), the parameters
have their defaults (00_scope R10). Of the reference slave R166 gives no reset value: its 256 registers hold 0 (DESIGN
CHOICE, log entry 21), its pointer is unspecified, `none` (DESIGN CHOICE, log entry 20), and no change of its own is pending
(DESIGN CHOICE, log entry 13). -/
def State.reset : State where
  init := false
  busy := .none
  phase := .idle
  txd := 0
  rxd := 0
  rxv := false
  res := 0
  resv := false
  cfgDiv := 0
  trace := []
  fault := none
  hpc := 0
  host := []
  env := .unconstrained
  chip := { reg := [], ptr := none, clock := [] }
  params := { rxDelaySufficient := false, decodeMode := .legacy }
  draws := 0

end Sys2Proof.Machine
end

