-- ==== Sys2Proof/Machine/Operands.lean ====
section
/-! DEFINITION. The data formats of spec/30_encoding.md section 4 and the constants of spec/20_memory.md: the packed BCD
byte, the address byte, the device address and the register map. -/

namespace Sys2Proof.Machine

/-! ## PackedBCDByte (30_encoding R79) -/

/-- The tens digit, bits 7..4. -/
def tensField (b : Byte) : BitVec 4 := b.extractLsb' 4 4

/-- The ones digit, bits 3..0. -/
def onesField (b : Byte) : BitVec 4 := b.extractLsb' 0 4

/-! ## The address byte (30_encoding R80, 20_memory R51) -/

/-- `addr7`, bits 7..1. -/
def addrField (b : Byte) : BitVec 7 := b.extractLsb' 1 7

/-- `rw`, bit 0: false for write (the master transmits), true for read. -/
def rwField (b : Byte) : Bool := b.getLsbD 0

/-- The address byte of a device address and a direction bit, `addr7` in the high bits. -/
def addressByte (addr7 : BitVec 7) (rw : Bool) : Byte := addr7 ++ BitVec.ofBool rw

/-- DEV_ADDR7, the clock chip's address (00_scope R10, P7). -/
def devAddr7 : BitVec 7 := 0x68

/-- DEV_W, the chip's write form (20_memory R51). -/
def devW : Byte := addressByte devAddr7 false

/-- DEV_R, the chip's read form (20_memory R51). -/
def devR : Byte := addressByte devAddr7 true

/-! ## The register map (20_memory R52; 00_scope R10, P8) -/

/-- RegisterAddress: the named chip registers. -/
inductive RegName where
  | seconds
  | minutes
  | hours
  | dayOfWeek
  | date
  | month
  | year
  | deviceId
  deriving DecidableEq, Repr

/-- The chip register offset of a name. The block itself accepts any offset (20_memory R53). -/
def regOffset : RegName → Byte
  | .seconds => 0x00
  | .minutes => 0x01
  | .hours => 0x02
  | .dayOfWeek => 0x03
  | .date => 0x04
  | .month => 0x05
  | .year => 0x06
  | .deviceId => 0x0A

end Sys2Proof.Machine
end

