-- ==== Sys2Proof/Machine/Flags.lean ====
section
/-! DEFINITION. The flags the block computes (spec/10_state.md R31, R34), the fault codes (spec/60_exceptions.md R201) and
the framing table (spec/40_bus_transport.md R114). -/

namespace Sys2Proof.Machine

/-- READY = (BUSY = NONE), the host's permission to issue (10_state R31). -/
def State.ready (s : State) : Bool := s.busy == .none

/-- The code of a fault (60_exceptions R201). -/
def Fault.code : Fault → BitVec 3
  | .illegalCommand => 1
  | .notInitialized => 2
  | .reinit => 3
  | .framing => 4
  | .unlatchedRead => 5
  | .resUnwritten => 6

/-- The port FAULT[2:0]: 0 when no fault, otherwise the first fault's code (10_state R29, R34). -/
def State.faultPort (s : State) : BitVec 3 :=
  match s.fault with
  | none => 0
  | some f => f.code

/-- The framing table (40_bus_transport R114): the new PHASE when a bus command emits `e` in phase `p`, `none` where the
cell says FRAMING. START and RESTART share a row; a byte in ADDR is the address byte, whose bit 0 gives the direction. -/
def framing (p : Phase) (e : BusEvent) : Option Phase :=
  match e, p with
  | .start, .idle => some .addr
  | .start, .addr => none
  | .start, .wr => some .addr
  | .start, .rd => none
  | .start, .rdDone => some .addr
  | .restart, .idle => some .addr
  | .restart, .addr => none
  | .restart, .wr => some .addr
  | .restart, .rd => none
  | .restart, .rdDone => some .addr
  | .write _, .idle => none
  | .write b, .addr => if rwField b then some .rd else some .wr
  | .write _, .wr => some .wr
  | .write _, .rd => none
  | .write _, .rdDone => none
  | .read, .idle => none
  | .read, .addr => none
  | .read, .wr => none
  | .read, .rd => some .rdDone
  | .read, .rdDone => none
  | .stop, .idle => none
  | .stop, .addr => none
  | .stop, .wr => some .idle
  | .stop, .rd => none
  | .stop, .rdDone => some .idle

end Sys2Proof.Machine
end

