-- ==== Sys2Proof/Machine/Ops.lean ====
section
/-! DEFINITION. The named updates of the state and the shared operations every meaning is written with: raising a fault
(spec/60_exceptions.md R202, the block's one kind of exception) and the issue step of a bus command (spec/40_bus_transport.md
R103 to R110). There is no return from an exception: only reset clears FAULT (R205). -/

namespace Sys2Proof.Machine

/-! ## Updates -/

/-- Raising a fault: FAULT takes it, provided FAULT was 0; nothing else is written (60_exceptions R202, R204). -/
def State.raise (s : State) (f : Fault) : State := { s with fault := s.fault.or (some f) }

/-- `emit(e)`: appends the event to TRACE (00_scope R14). -/
def State.emit (s : State) (e : BusEvent) : State := { s with trace := s.trace ++ [e] }

/-- `PHASE <- p`. -/
def State.setPhase (s : State) (p : Phase) : State := { s with phase := p }

/-- `BUSY <- b`. -/
def State.setBusy (s : State) (b : Busy) : State := { s with busy := b }

/-- `TXD <- b`. -/
def State.setTxd (s : State) (b : Byte) : State := { s with txd := b }

/-- `RXD <- b; RXV <- 1` (40_bus_transport R111). -/
def State.latch (s : State) (b : Byte) : State := { s with rxd := b, rxv := true }

/-- `RXD <- b` after a read that came too late (40_bus_transport R111). -/
def State.latchLate (s : State) (b : Byte) : State := { s with rxd := b }

/-- `RES <- b; RESV <- 1` (10_state R26: each write sets RESV). -/
def State.setRes (s : State) (b : Byte) : State := { s with res := b, resv := true }

/-- `CFG_DIV <- BUS_CLOCK_DIVISOR; INIT <- 1` (40_bus_transport R101). -/
def State.configure (s : State) : State := { s with cfgDiv := Config.busClockDivisor, init := true }

/-- The environment has made a draw: the next one has the next index (log entry 4). -/
def State.drawn (s : State) : State := { s with draws := s.draws + 1 }

/-- A change of the reference slave alone. -/
def State.setChip (s : State) (c : Chip) : State := { s with chip := c }

/-- The host's next step is taken off its list (10_state R34). -/
def State.popHost (s : State) : State := { s with host := s.host.tail }

/-- `HPC <- HPC + 1` (40_bus_transport R100). -/
def State.advance (s : State) : State := { s with hpc := s.hpc + 1 }

/-! ## The issue step of a bus command -/

/-- The transmit register is loaded by a WRITE_BYTE and by nothing else (10_state R24). -/
def State.loadTxd (s : State) (e : BusEvent) : State :=
  match e with
  | .write b => s.setTxd b
  | .start => s
  | .restart => s
  | .stop => s
  | .read => s

/-- The issue step shared by START, RESTART, STOP, WRITE_BYTE and READ_BYTE (40_bus_transport R103, R105, R106, R108,
R110): NOT_INITIALIZED first, then FRAMING by the table of R114, and every write after both checks (60_exceptions R203,
R204). `e` is the event the command emits and `wait` the wait it then holds the host in. -/
def busCommand (e : BusEvent) (wait : Busy) (s : State) : State :=
  if s.init then
    match framing s.phase e with
    | some p => (((s.loadTxd e).emit e).setPhase p).setBusy wait
    | none => s.raise .framing
  else s.raise .notInitialized

end Sys2Proof.Machine
end

