-- ==== Sys2Proof/Machine/Chip.lean ====
section
/-! DEFINITION. The bus environment: its draws (spec/40_bus_transport.md R104, R109, R111) and the reference slave
(spec/42_transactions.md R166) with its register memory. -/

namespace Sys2Proof.Machine

/-! ## Register memory: (offset, byte) pairs in canonical form -/

/-- What a register not listed reads as. R166 gives no contents after reset (DESIGN CHOICE, log entry 21). -/
def regUnlisted : Byte := 0

/-- Offsets strictly rising from `lo`, each below 256, no byte equal to what an unlisted register reads as. -/
def regsFrom : Nat → List Host.Cell → Bool
  | _, [] => true
  | lo, (a, v) :: rest => decide (lo ≤ a) && decide (a < 256) && v != regUnlisted && regsFrom (a + 1) rest

/-- The canonical form of the register memory. -/
def regsWf (m : List Host.Cell) : Bool := regsFrom 0 m

/-- `MemRead(r, 1) = REG[r]` (42_transactions R166). -/
def regRead (m : List Host.Cell) (a : Byte) : Byte :=
  match m.find? (fun c => c.1 == a.toNat) with
  | some c => c.2
  | none => regUnlisted

/-- The cell with number `a` put into a canonical list. -/
def cellWrite : List Host.Cell → Nat → Byte → List Host.Cell
  | [], a, v => [(a, v)]
  | (a', v') :: rest, a, v =>
    if a < a' then (a, v) :: (a', v') :: rest
    else if a = a' then (a, v) :: rest
    else (a', v') :: cellWrite rest a v

/-- The cell with number `a` taken out. -/
def cellErase (m : List Host.Cell) (a : Nat) : List Host.Cell := m.filter (fun c => c.1 != a)

/-- `MemWrite(r, 1, v)` sets `REG[r] <- v` (42_transactions R166). -/
def regWrite (m : List Host.Cell) (a v : Byte) : List Host.Cell :=
  if v = regUnlisted then cellErase m a.toNat else cellWrite m a.toNat v

/-! ## The transaction the slave sees -/

/-- The events since the last stop, oldest first (00_scope R14, glossary: from a START to the next STOP). -/
def openTransaction (t : List BusEvent) : List BusEvent :=
  t.foldl (fun acc e => if e = .stop then [] else acc ++ [e]) []

/-! ## The reference slave (42_transactions R166) -/

/-- What a transmitted byte does to the pointer: the register byte after the chip's write address sets it, and a data
byte after that leaves it unspecified. `t` is the transaction so far. -/
def Chip.afterByte (c : Chip) (t : List BusEvent) : Chip :=
  match t with
  | [.start, .write a, .write r] => if a = devW then { c with ptr := some r } else c
  | [.start, .write _, .write _, .write _] => { c with ptr := none }
  | _ => c

/-- The register the chip drives in a receive cycle, where R166 says which: the one at the pointer, in the addressed-read
transaction. `none` where R166 gives no byte. -/
def Chip.readByte? (c : Chip) (t : List BusEvent) : Option Byte :=
  match t with
  | [.start, .write a, .write _, .restart, .write d, .read] =>
    if a = devW ∧ d = devR then c.ptr.map (regRead c.reg) else none
  | _ => none

/-- After a received byte the pointer is unspecified. -/
def Chip.afterRead (c : Chip) : Chip := { c with ptr := none }

/-- The register an addressed-write transaction has written when its stop arrives. `t` is the transaction before the stop. -/
def Chip.store (c : Chip) (t : List BusEvent) : Chip :=
  match t with
  | [.start, .write a, .write r, .write v] => if a = devW then { c with reg := regWrite c.reg r v } else c
  | _ => c

/-- The chip's own changes that land between two transactions (20_memory R57). -/
def Chip.tick (c : Chip) : Chip :=
  { c with reg := (c.clock.headD []).foldl (fun m u => regWrite m u.1 u.2) c.reg, clock := c.clock.tail }

/-- What a stop does: the written register, the pointer unspecified, then the chip's own changes. -/
def Chip.afterStop (c : Chip) (t : List BusEvent) : Chip := { c.store t with ptr := none }.tick

/-! ## The environment's part of each completion step -/

/-- The chip reacts only when it is the environment (42_transactions R166). -/
def State.reacts (s : State) (c : Chip) : State :=
  match s.env with
  | .unconstrained => s
  | .silent => s
  | .reference => s.setChip c

/-- The slave's part of a write completion. -/
def State.chipAfterByte (s : State) : State := s.reacts (s.chip.afterByte (openTransaction s.trace))

/-- The slave's part of a read completion. -/
def State.chipAfterRead (s : State) : State := s.reacts s.chip.afterRead

/-- The slave's part of a stop; TRACE already ends with the stop. -/
def State.chipAfterStop (s : State) : State := s.reacts (s.chip.afterStop (openTransaction s.trace.dropLast))

/-- COMPLETE: does the environment take its completion step now? Any environment draws it and may never do so (R112), the
silent one never does, the reference slave always does (R166). -/
def State.busCompletes (s : State) : Bool :=
  match s.env with
  | .unconstrained => Config.envCompletes s.draws
  | .silent => false
  | .reference => true

/-- ACK: the slave's acknowledgment bit of a write completion. -/
def State.ackDraw (s : State) : Ack :=
  match s.env with
  | .unconstrained => Config.slaveAck s.draws
  | .silent => Config.slaveAck s.draws
  | .reference => .ack

/-- RXBYTE: the byte the slave drives. A byte the environment's description does not give is a free draw. -/
def State.rxByteDraw (s : State) : Byte :=
  match s.env with
  | .unconstrained => Config.rxByte s.draws
  | .silent => Config.rxByte s.draws
  | .reference => (s.chip.readByte? (openTransaction s.trace)).getD (Config.rxByte s.draws)

/-- `ready`: the receive was latched within RX_DELAY. -/
def State.rxReadyDraw (s : State) : Bool := Config.rxReady s.draws

/-- `late`: the byte lands in RXD after the read. -/
def State.rxLateDraw (s : State) : Bool := Config.rxLate s.draws

end Sys2Proof.Machine
end

