-- ==== Sys2Proof/Machine/Completion.lean ====
section
/-! DEFINITION. The completion steps of the block (spec/40_bus_transport.md R102, R104, R107, R109, R111), with their draws
as arguments. -/

namespace Sys2Proof.Machine

/-- INIT completion (40_bus_transport R102). -/
def completeInit (s : State) : State := s.setBusy .none

/-- Completion of START and RESTART (40_bus_transport R104, R105). -/
def completeStart (s : State) : State := s.setBusy .none

/-- STOP completion (40_bus_transport R107). -/
def completeStop (s : State) : State := s.setBusy .none

/-- Write completion (40_bus_transport R109): the acknowledgment is drawn and read by no rule (R113). -/
def completeWrite (_ack : Ack) (s : State) : State := s.setBusy .none

/-- The late byte of a read that was not ready, if it lands (40_bus_transport R111). -/
def State.lateByte (s : State) (b : Byte) (late : Bool) : State := if late then s.latchLate b else s

/-- Read completion (40_bus_transport R111): `b` is RXBYTE. With RX_DELAY_SUFFICIENT every receive is ready. A read that
is not ready returns the stale latch, and faults when there is none; BUSY is then not written. -/
def completeRead (b : Byte) (ready late : Bool) (s : State) : State :=
  if s.params.rxDelaySufficient || ready then ((s.latch b).setRes b).setBusy .none
  else if s.rxv then ((s.setRes s.rxd).lateByte b late).setBusy .none
  else s.raise .unlatchedRead

end Sys2Proof.Machine
end

