-- ==== Sys2Proof/Machine/Bus.lean ====
section
/-! DEFINITION. The six commands of the master state machine (spec/40_bus_transport.md): the issue step of each. Their
completion steps are in Machine/Completion.lean. READY and FAULT are checked by the host's step, not here (R100; log
entry 10). -/

namespace Sys2Proof.Machine

/-- INIT (40_bus_transport R101). -/
def execInit (s : State) : Host.Outcome State Fault Refusal :=
  .next (if s.init then s.raise .reinit else s.configure.setBusy .initDelay)

/-- START (40_bus_transport R103). -/
def execStart (s : State) : Host.Outcome State Fault Refusal :=
  .next (busCommand .start .startWait s)

/-- RESTART (40_bus_transport R105): START with the event Restart. -/
def execRestart (s : State) : Host.Outcome State Fault Refusal :=
  .next (busCommand .restart .startWait s)

/-- STOP (40_bus_transport R106). -/
def execStop (s : State) : Host.Outcome State Fault Refusal :=
  .next (busCommand .stop .stopDelay s)

/-- WRITE_BYTE (40_bus_transport R108). -/
def execWriteByte (b : Byte) (s : State) : Host.Outcome State Fault Refusal :=
  .next (busCommand (.write b) .txWait s)

/-- READ_BYTE (40_bus_transport R110); its result is written by the read completion (R111). -/
def execReadByte (s : State) : Host.Outcome State Fault Refusal :=
  .next (busCommand .read .rxDelay s)

end Sys2Proof.Machine
end

