-- ==== Sys2Proof/Machine/Codec.lean ====
section
/-! DEFINITION. The packed-BCD codec (spec/41_bcd_codec.md): its two functions and its two commands. -/

namespace Sys2Proof.Machine

/-- `bcd_encode` (41_bcd_codec R140), exact on numbers and then truncated to 8 bits. -/
def bcdEncode (v : Byte) : Byte :=
  BitVec.ofNat 8 (((v.toNat / 10) <<< 4) + v.toNat % 10)

/-- DECODE_TENS_MASK (00_scope R15, 41_bcd_codec R142). -/
def tensMask : DecodeMode → Nat
  | .legacy => 0x7
  | .corrected => 0xF

/-- `bcd_decode` (41_bcd_codec R141), one routine for every field. -/
def bcdDecode (m : DecodeMode) (b : Byte) : Byte :=
  BitVec.ofNat 8 (((b.toNat >>> 4) &&& tensMask m) * 10 + (b.toNat &&& 0x0F))

/-- BCD_ENCODE (41_bcd_codec R143): no INIT needed, any phase, BUSY stays NONE. -/
def execBcdEncode (v : Byte) (s : State) : Host.Outcome State Fault Refusal :=
  .next (s.setRes (bcdEncode v))

/-- BCD_DECODE (41_bcd_codec R144). -/
def execBcdDecode (b : Byte) (s : State) : Host.Outcome State Fault Refusal :=
  .next (s.setRes (bcdDecode s.params.decodeMode b))

end Sys2Proof.Machine
end

