-- ==== Sys2Proof/Machine/Dispatch.lean ====
section
/-! DEFINITION. The issue rule of each command (spec/30_encoding.md R73), one arm per constructor. -/

namespace Sys2Proof.Machine

def exec (i : Instr) (s : State) : Host.Outcome State Fault Refusal :=
  match i with
  | .init => Sys2Proof.Machine.execInit s
  | .start => Sys2Proof.Machine.execStart s
  | .restart => Sys2Proof.Machine.execRestart s
  | .stop => Sys2Proof.Machine.execStop s
  | .writeByte b => Sys2Proof.Machine.execWriteByte b s
  | .readByte => Sys2Proof.Machine.execReadByte s
  | .bcdEncode v => Sys2Proof.Machine.execBcdEncode v s
  | .bcdDecode b => Sys2Proof.Machine.execBcdDecode b s

end Sys2Proof.Machine
end

