-- ==== Sys2Proof/Machine/Agents.lean ====
section
/-! DEFINITION. The steps of the three agents (spec/00_scope.md R9) and which of them moves. In every state at most one has
a step: none after a fault (spec/60_exceptions.md R202), the host while BUSY = NONE (spec/10_state.md R22), otherwise the
agent that lifts the wait. -/

namespace Sys2Proof.Machine

/-- The host's issue step for a word (40_bus_transport R100): HPC advances first, then the word is decoded, and a legal
one runs its issue rule. -/
def issue (w : CommandWord) (s : State) : Host.Outcome State Fault Refusal :=
  match decode w with
  | .legal i => exec i s.advance
  | .illegal _ => .next (s.advance.raise .illegalCommand)

/-- What the host's result read returns: RES when RESV = 1 (60_exceptions R213; log entry 17). -/
def State.resultRead (s : State) : Option Byte := if s.resv then some s.res else none

/-- The host's result read (60_exceptions R213): it changes nothing, but raises RES_UNWRITTEN when RESV = 0. -/
def readResult (s : State) : State :=
  match s.resultRead with
  | some _ => s
  | none => s.raise .resUnwritten

/-- The host's step, while BUSY = NONE and FAULT = 0 (10_state R34). With no step left nothing happens: the block waits
for a command (log entry 9). -/
def hostStep (s : State) : Host.Outcome State Fault Refusal :=
  match s.host with
  | [] => .next s
  | .readResult :: _ => .next (readResult s.popHost)
  | .issue w :: _ => issue w s.popHost

/-- A wait the environment lifts (40_bus_transport R104, R109, R112): each step draws whether it does so now. If not, the
host is held for another step, and nothing but the draw counter moves (log entry 5). -/
def waitStep (s lifted : State) : State := if s.busCompletes then lifted.drawn else s.drawn

/-- One step of the machine. A delay wait ends at once: no other agent could move before it does (weak fairness, DEDUCED,
log entry 6). -/
def agentStep (s : State) : Host.Outcome State Fault Refusal :=
  match s.fault with
  | some f => .fault f
  | none =>
    match s.busy with
    | .none => hostStep s
    | .initDelay => .next (completeInit s)
    | .startWait => .next (waitStep s (completeStart s))
    | .txWait => .next (waitStep s (completeWrite s.ackDraw s.chipAfterByte))
    | .rxDelay => .next (completeRead s.rxByteDraw s.rxReadyDraw s.rxLateDraw s.chipAfterRead).drawn
    | .stopDelay => .next (completeStop s.chipAfterStop)

/-- The state with a command word as the host's next step, and the host free to take it (log entry 11). -/
def placeCommand (s : State) (w : CommandWord) : State :=
  { s with host := .issue w :: s.host, busy := .none, fault := none }

end Sys2Proof.Machine
end

