-- ==== Sys2Proof/Machine/Step.lean ====
section
/-! DEFINITION. The step function of the machine, and how a command is placed where it takes its next one. -/

namespace Sys2Proof.Machine

/-- One step: of the host, of the master or of the bus environment (spec/00_scope.md R9). -/
def step (s : State) : Host.Outcome State Fault Refusal := agentStep s

/-- The state whose very next step issues the command word `w` (numbered as spec/opcode_table.json numbers its bits). -/
def State.withFetchWord (s : State) (nbits w : Nat) : State := placeCommand s (BitVec.ofNat 16 (w % 2 ^ nbits))

end Sys2Proof.Machine
end

