-- ==== Sys2Proof/Machine/Wire.lean ====
section
/-! DEFINITION. The wire projection of TRACE (spec/40_bus_transport.md R115). -/

namespace Sys2Proof.Machine

/-- What passes on the wire, at the level of conditions, whole bytes and acknowledgment bits. -/
inductive WireItem where
  /-- One start condition, S. -/
  | startCondition
  /-- One stop condition, P. -/
  | stopCondition
  /-- A byte sent by the master. -/
  | masterByte (b : Byte)
  /-- The slave's acknowledgment bit; TRACE does not record its value (10_state R28). -/
  | slaveAck
  /-- A byte sent by the slave; TRACE does not record its value (10_state R28). -/
  | slaveByte
  /-- The master's bit after a received byte (PRESUMED that it sends one: 40_bus_transport R115, from general knowledge). -/
  | masterAck (a : Ack)
  deriving DecidableEq, Repr

/-- The wire items of one event; `rxAck` is MASTER_RX_ACK. START and RESTART are one condition. -/
def wireOfEvent (rxAck : Ack) : BusEvent → List WireItem
  | .start => [.startCondition]
  | .restart => [.startCondition]
  | .stop => [.stopCondition]
  | .write b => [.masterByte b, .slaveAck]
  | .read => [.slaveByte, .masterAck rxAck]

/-- The wire projection of a trace. -/
def wireOfTrace (rxAck : Ack) (t : List BusEvent) : List WireItem := t.flatMap (wireOfEvent rxAck)

/-- The wire the machine has driven since reset, with the parameter MASTER_RX_ACK (00_scope R10, P6). -/
def State.wire (s : State) : List WireItem := wireOfTrace Config.masterRxAck s.trace

end Sys2Proof.Machine
end

