-- ==== Sys2Proof/Machine/Fields.lean ====
section
/-! DEFINITION. The two field transactions (spec/42_transactions.md R160, R161; spec/30_encoding.md R78): sequences of
commands, not commands of their own. -/

namespace Sys2Proof.Machine

/-- READ_FIELD r: the addressed read (42_transactions R160). It returns the raw packed byte (R162). -/
def readField (r : Byte) : List Instr :=
  [.start, .writeByte devW, .writeByte r, .restart, .writeByte devR, .readByte, .stop]

/-- WRITE_FIELD r, v: the addressed write of a raw byte (42_transactions R161, R162). -/
def writeField (r v : Byte) : List Instr :=
  [.start, .writeByte devW, .writeByte r, .writeByte v, .stop]

/-- The events a completed READ_FIELD appends (42_transactions R160, R163). -/
def readFieldEvents (r : Byte) : List BusEvent :=
  [.start, .write devW, .write r, .restart, .write devR, .read, .stop]

/-- The events a completed WRITE_FIELD appends (42_transactions R161, R163). -/
def writeFieldEvents (r v : Byte) : List BusEvent :=
  [.start, .write devW, .write r, .write v, .stop]

/-- A list of commands as steps of the host. -/
def hostProgram (is : List Instr) : List HostStep := is.map (fun i => .issue (encode i))

end Sys2Proof.Machine
end

