-- ==== Sys2Proof/Safety.lean ====
section
/-! DEFINITION. The terms claims about runs are made in: the end of a run and its observation (spec/70_reset_and_hazards.md
R251), a responsive bus (R247), and the invariant of the machine. -/

namespace Sys2Proof.Machine

/-- The step issues a command; a result read does not (10_state R34). -/
def HostStep.issues : HostStep → Bool
  | .issue _ => true
  | .readResult => false

/-- A run has ended (70_reset_and_hazards R251): the host program has no command left, none is in flight, no fault. A
result read may still be pending: it is no command (10_state R34); one that would fault counts too (DESIGN CHOICE, log
entry 9). -/
def State.runEnded (s : State) : Bool := !s.host.any HostStep.issues && s.ready && s.fault.isNone

/-- What is observed of a run (70_reset_and_hazards R251): final TRACE, RES and RESV, PHASE and INIT. -/
structure Observation where
  trace : List BusEvent
  res : Byte
  resv : Bool
  phase : Phase
  init : Bool
  deriving DecidableEq, Repr

/-- The observation a state gives. -/
def State.observation (s : State) : Observation :=
  { trace := s.trace, res := s.res, resv := s.resv, phase := s.phase, init := s.init }

/-- A run is safe so far: no fault (60_exceptions R202). -/
def State.safe (s : State) : Bool := s.fault.isNone

/-- BusResponsive (70_reset_and_hazards R247): every completion step the environment can take it takes at last. A named
premise: it leaves out the hang of 40_bus_transport R112. The reference slave meets it (42_transactions R166), the silent
environment does not, and any other environment meets it when its draws say so again and again. -/
def State.BusResponsive (s : State) : Prop :=
  match s.env with
  | .unconstrained => ∀ n, ∃ m, n ≤ m ∧ Config.envCompletes m = true
  | .silent => False
  | .reference => True

/-- `n` steps of the machine (Host/Core.lean's run of the core). -/
def runFor (n : Nat) (s : State) : Host.Outcome State Fault Refusal := core.run n s

/-- The observation of the run from `s`, if it has ended after `n` steps (70_reset_and_hazards R251). Once a fault is held
there is none, and a run that never ends has none. A result read still pending does not keep a run from having ended: where
RESV = 0 that read then raises RES_UNWRITTEN, so the run has an observation before the read and none after it (DESIGN
CHOICE, log entry 9). -/
def observationAfter (n : Nat) (s : State) : Option Observation :=
  match runFor n s with
  | .next t => if t.runEnded then some t.observation else none
  | .fault _ => none
  | .refused _ => none

/-- Some number of steps leads from `s` to `t`. -/
def State.Reaches (s t : State) : Prop := ∃ n, runFor n s = .next t

/-- The host is held (10_state R22): no step of the machine takes a step of the host's. -/
def State.hostHeld (s : State) : Prop := ∀ t, step s = .next t → t.host = s.host ∧ t.hpc = s.hpc

/-- The phase after an event, from the phase before it (10_state R23): the last start, restart or stop decides, then the
direction bit of the first byte after a start, then whether the byte has been read. -/
def phaseAfter (p : Phase) : BusEvent → Phase
  | .start => .addr
  | .restart => .addr
  | .stop => .idle
  | .write b => if p = .addr then (if rwField b then .rd else .wr) else p
  | .read => .rdDone

/-- PHASE as the function of TRACE that 10_state R23 says it is. -/
def phaseOfTrace (t : List BusEvent) : Phase := t.foldl phaseAfter .idle

/-- Every event stands where the framing table allows it (40_bus_transport R114), from phase `p` on. -/
def wellFramedFrom : Phase → List BusEvent → Bool
  | _, [] => true
  | p, e :: rest => (framing p e).isSome && wellFramedFrom (phaseAfter p e) rest

/-- What the wait in flight says about the transaction (10_state R22, R23). -/
def State.waitFits (s : State) : Prop :=
  match s.busy with
  | .none => True
  | .initDelay => s.trace = []
  | .startWait => s.phase = .addr
  | .txWait => s.phase = .wr ∨ s.phase = .rd
  | .rxDelay => s.phase = .rdDone
  | .stopDelay => s.phase = .idle

/-- What a fault says about the state it froze (60_exceptions R201, R204). -/
def State.faultFits (s : State) : Prop :=
  match s.fault with
  | none => True
  | some .illegalCommand => s.busy = .none
  | some .notInitialized => s.busy = .none ∧ s.init = false
  | some .reinit => s.busy = .none ∧ s.init = true
  | some .framing => s.busy = .none ∧ s.init = true
  | some .unlatchedRead => s.busy = .rxDelay ∧ s.rxv = false
  | some .resUnwritten => s.busy = .none ∧ s.resv = false

/-- The invariant of the machine: what holds at reset and after every step, whatever the host and the bus do. -/
structure State.Inv (s : State) : Prop where
  /-- PHASE is a function of TRACE (10_state R23). -/
  phase_eq : s.phase = phaseOfTrace s.trace
  /-- No event was emitted out of order (40_bus_transport R114). -/
  framed : wellFramedFrom .idle s.trace = true
  /-- Before INIT nothing has happened on the bus (10_state R21, 40_bus_transport R101). -/
  quiet : s.init = false → s.trace = [] ∧ s.busy = .none ∧ s.rxv = false
  /-- A latched byte came with a result (40_bus_transport R111). -/
  latched : s.rxv = true → s.resv = true
  /-- The wait in flight fits the phase. -/
  wait : s.waitFits
  /-- The fault fits the state. -/
  fault : s.faultFits

end Sys2Proof.Machine
end

