-- ==== Sys2Proof/Certificates/Slice0/Obligations.lean ====
section
/-! DEFINITION. The statements for the provers, taken from the numbered rules of spec/. OBLIGATIONS.json lists them. -/

open Sys2Proof Sys2Proof.Machine

/-! ## Encoding (spec/30_encoding.md) -/

/-- 30_encoding R70 to R73, R76: decoding the word of any command gives the command back, whatever its operand. -/
def Obligations.DecodeEncodeRoundTrip : Prop :=
  ∀ i : Instr, decode (encode i) = .legal i

/-- 30_encoding R73, R76: a legal word is the word of the command it decodes to, so no bit of it is dropped. -/
def Obligations.LegalWordIsItsCommandsWord : Prop :=
  ∀ (w : CommandWord) (i : Instr), decode w = .legal i → encode i = w

/-- 30_encoding R76: a word matches exactly one row of the opcode map and decodes to a command of that row's mnemonic and
format, or it matches none and is illegal; and the decoder is the spec's decode function. -/
def Obligations.EveryWordMatchesOneRowOrIsIllegal : Prop :=
  ∀ (op rsv : BitVec 4) (imm : Byte) (w : CommandWord), w = op ++ rsv ++ imm →
    ((∃ r ∈ opcodeTable, ∃ i, r.hits w = true ∧ (∀ r' ∈ opcodeTable, r'.hits w = true → r' = r) ∧
        decode w = .legal i ∧ i.mnemonic = r.mnemonic ∧ i.format = r.format) ∨
     ((∀ r ∈ opcodeTable, r.hits w = false) ∧ ∃ why, decode w = .illegal why)) ∧
    (if op.toNat ∉ [0x1, 0x2, 0x3, 0x4, 0x5, 0x6, 0x8, 0x9] then ∃ why, decode w = .illegal why
     else if rsv ≠ 0 then ∃ why, decode w = .illegal why
     else if op.toNat ∈ [0x1, 0x2, 0x3, 0x4, 0x6] ∧ imm ≠ 0 then ∃ why, decode w = .illegal why
     else ∃ i, commandOf op imm = some i ∧ decode w = .legal i)

/-- 30_encoding R73: words written out from the opcode map decode to the commands they stand for. -/
def Obligations.WordsOfTheOpcodeMapDecode : Prop :=
  decodeTableWord 16 0b0001000000000000 = some .init ∧
  decodeTableWord 16 0b0010000000000000 = some .start ∧
  decodeTableWord 16 0b0011000000000000 = some .restart ∧
  decodeTableWord 16 0b0100000000000000 = some .stop ∧
  decodeTableWord 16 0b0101000011010000 = some (.writeByte 0xD0) ∧
  decodeTableWord 16 0b0110000000000000 = some .readByte ∧
  decodeTableWord 16 0b1000000001010101 = some (.bcdEncode 85) ∧
  decodeTableWord 16 0b1001000010000101 = some (.bcdDecode 0x85)

/-- 30_encoding R78: the words the two pseudo-commands expand to, for every register offset and value. -/
def Obligations.FieldSequencesExpand : Prop :=
  ∀ r v : Byte,
    (readField r).map encode =
      [0x2000, 0x50D0, 0x50#8 ++ r, 0x3000, 0x50D1, 0x6000, 0x4000] ∧
    (writeField r v).map encode = [0x2000, 0x50D0, 0x50#8 ++ r, 0x50#8 ++ v, 0x4000]

/-- 30_encoding R75: a word with a reserved opcode faults with ILLEGAL_COMMAND, whatever its other bits are. -/
def Obligations.ReservedOpcodesFault : Prop :=
  ∀ (s : State) (op rsv : BitVec 4) (imm : Byte) (rest : List HostStep),
    s.fault = none → s.busy = .none → s.host = .issue (op ++ rsv ++ imm) :: rest →
    op.toNat ∈ [0x0, 0x7, 0xA, 0xB, 0xC, 0xD, 0xE, 0xF] →
    step s = .next { s with host := rest, hpc := s.hpc + 1, fault := some .illegalCommand }

/-- 30_encoding R74: a word with an assigned opcode that breaks a must-be-zero field faults with ILLEGAL_COMMAND: `rsv ≠ 0`
in any format, or `imm8 ≠ 0` in format Z. -/
def Obligations.MustBeZeroFieldsFault : Prop :=
  ∀ (s : State) (op rsv : BitVec 4) (imm : Byte) (rest : List HostStep),
    s.fault = none → s.busy = .none → s.host = .issue (op ++ rsv ++ imm) :: rest →
    (op.toNat ∈ [0x1, 0x2, 0x3, 0x4, 0x5, 0x6, 0x8, 0x9] ∧ rsv ≠ 0 ∨
     op.toNat ∈ [0x1, 0x2, 0x3, 0x4, 0x6] ∧ imm ≠ 0) →
    step s = .next { s with host := rest, hpc := s.hpc + 1, fault := some .illegalCommand }

/-! ## The host's step -/

/-- A step runs the decoded command: where the host's next step is a word that decodes to `i`, the step is `exec i` after
HPC has advanced and the word is taken off the host's list; and a word placed with `withFetchWord` is run so. -/
def Obligations.StepRunsDecodedCommand : Prop :=
  (∀ (s : State) (w : CommandWord) (i : Instr) (rest : List HostStep),
    s.fault = none → s.busy = .none → s.host = .issue w :: rest → decode w = .legal i →
    i.wellFormed = true ∧ step s = exec i { s with host := rest, hpc := s.hpc + 1 }) ∧
  (∀ (s : State) (w : CommandWord) (i : Instr), decode w = .legal i →
    step (s.withFetchWord 16 w.toNat) = exec i { s with busy := .none, fault := none, hpc := s.hpc + 1 })

/-- 40_bus_transport R100: the issue step is enabled only with READY = 1, FAULT = 0 and a command to issue; it advances
HPC whether or not the command faults; an illegal word faults, a legal one runs its issue rule; after a fault nothing
moves. -/
def Obligations.IssueStepIsGuarded : Prop :=
  ∀ s : State,
    (∀ g, s.fault = some g → step s = .fault g) ∧
    (∀ t, step s = .next t → t.hpc ≠ s.hpc →
      s.fault = none ∧ s.ready = true ∧ ∃ w rest, s.host = .issue w :: rest) ∧
    (∀ w rest, s.fault = none → s.ready = true → s.host = .issue w :: rest →
      ∃ t, step s = .next t ∧ t.hpc = s.hpc + 1 ∧
        (∀ i, decode w = .legal i → exec i { s with host := rest, hpc := s.hpc + 1 } = .next t) ∧
        (∀ why, decode w = .illegal why →
          t = { s with host := rest, hpc := s.hpc + 1, fault := some .illegalCommand }))

/-- 60_exceptions R213: the host's result read returns RES when RESV = 1 and raises RES_UNWRITTEN when RESV = 0; it is
taken only with BUSY = NONE and FAULT = 0, and changes no state of the block. -/
def Obligations.ResultReadReturnsRes : Prop :=
  ∀ (s : State) (rest : List HostStep), s.host = .readResult :: rest →
    (s.fault = none → s.busy = .none → s.resv = true →
      s.resultRead = some s.res ∧ step s = .next { s with host := rest }) ∧
    (s.fault = none → s.busy = .none → s.resv = false →
      s.resultRead = none ∧ step s = .next { s with host := rest, fault := some .resUnwritten }) ∧
    (∀ t, step s = .next t → t.host ≠ s.host → s.fault = none ∧ s.busy = .none)

/-- 70_reset_and_hazards R251 and 60_exceptions R213: where a run has ended, no later step changes its observation, HPC or
BUSY; where RESV = 1 the result reads still pending only leave the host's list; and with no host step left the machine
answers the same state. That a run has ended with a read still pending, also one that then raises RES_UNWRITTEN, and that
the machine then answers the same state, are the model's choice, log entry 9. -/
def Obligations.EndedRunStaysAsItIs : Prop :=
  ∀ s : State, s.runEnded = true → ∀ n,
    (∀ t, runFor n s = .next t → t.observation = s.observation ∧ t.hpc = s.hpc ∧ t.busy = s.busy) ∧
    (s.resv = true → runFor n s = .next { s with host := s.host.drop n } ∧
      observationAfter n s = some s.observation) ∧
    (s.host = [] → runFor n s = .next s ∧ observationAfter n s = some s.observation)

/-- 10_state R22: the host has no step while BUSY ≠ NONE. -/
def Obligations.HostHasNoStepWhileBusy : Prop :=
  ∀ s : State, s.busy ≠ .none → s.hostHeld

/-! ## The six bus commands (spec/40_bus_transport.md): effect, faults and hold -/

/-- 40_bus_transport R101: INIT configures the divisor, enables the controller and holds the host; a second INIT faults;
INIT is the only command that sets INIT; from reset its word gives INIT = 1 and BUSY = INIT_DELAY, then BUSY = NONE. -/
def Obligations.InitConfiguresOnce : Prop :=
  encode .init = 0x1000 ∧
  (∀ s : State,
    (s.init = false →
      exec .init s = .next { s with cfgDiv := Config.busClockDivisor, init := true, busy := .initDelay } ∧
      State.hostHeld { s with cfgDiv := Config.busClockDivisor, init := true, busy := .initDelay }) ∧
    (s.fault = none → s.init = true → exec .init s = .next { s with fault := some .reinit }) ∧
    (s.Inv → s.init = false → s.phase = .idle)) ∧
  (∀ (i : Instr) (s t : State), exec i s = .next t → t.init ≠ s.init → i = .init) ∧
  (∃ t u, step (State.reset.withFetchWord 16 0x1000) = .next t ∧ t.init = true ∧ t.busy = .initDelay ∧
    step t = .next u ∧ u.busy = .none)

/-- 40_bus_transport R103: START emits Start in IDLE, WR or RD_DONE, enters ADDR and holds the host until completion;
NOT_INITIALIZED before INIT, FRAMING in ADDR and RD. -/
def Obligations.StartOpensAddressPhase : Prop :=
  encode .start = 0x2000 ∧
  ∀ s : State,
    (s.init = true → s.phase = .idle ∨ s.phase = .wr ∨ s.phase = .rdDone →
      exec .start s = .next { s with trace := s.trace ++ [.start], phase := .addr, busy := .startWait } ∧
      State.hostHeld { s with trace := s.trace ++ [.start], phase := .addr, busy := .startWait }) ∧
    (s.fault = none → s.init = false → exec .start s = .next { s with fault := some .notInitialized }) ∧
    (s.fault = none → s.init = true → s.phase = .addr ∨ s.phase = .rd →
      exec .start s = .next { s with fault := some .framing })

/-- 40_bus_transport R105: RESTART is START with the event Restart: same checks, same PHASE and BUSY, same faults; it is
legal in IDLE; and the wire projection maps both events to one start condition. -/
def Obligations.RestartOpensAddressPhase : Prop :=
  encode .restart = 0x3000 ∧
  (∀ s : State,
    (s.init = true → s.phase = .idle ∨ s.phase = .wr ∨ s.phase = .rdDone →
      exec .restart s = .next { s with trace := s.trace ++ [.restart], phase := .addr, busy := .startWait } ∧
      State.hostHeld { s with trace := s.trace ++ [.restart], phase := .addr, busy := .startWait }) ∧
    (s.fault = none → s.init = false → exec .restart s = .next { s with fault := some .notInitialized }) ∧
    (s.fault = none → s.init = true → s.phase = .addr ∨ s.phase = .rd →
      exec .restart s = .next { s with fault := some .framing })) ∧
  (∀ a, wireOfEvent a .restart = [.startCondition] ∧ wireOfEvent a .start = [.startCondition])

/-- 40_bus_transport R106: STOP emits Stop in WR or RD_DONE, releases the bus and holds the host; RES and RESV are
untouched; NOT_INITIALIZED before INIT, FRAMING in IDLE, ADDR and RD. It cannot hang: its wait ends in one step. -/
def Obligations.StopReleasesBus : Prop :=
  encode .stop = 0x4000 ∧
  ∀ s : State,
    (s.init = true → s.phase = .wr ∨ s.phase = .rdDone →
      exec .stop s = .next { s with trace := s.trace ++ [.stop], phase := .idle, busy := .stopDelay } ∧
      State.hostHeld { s with trace := s.trace ++ [.stop], phase := .idle, busy := .stopDelay } ∧
      (s.fault = none → ∃ t, t.busy = .none ∧ t.res = s.res ∧ t.resv = s.resv ∧
        step { s with trace := s.trace ++ [.stop], phase := .idle, busy := .stopDelay } = .next t)) ∧
    (s.fault = none → s.init = false → exec .stop s = .next { s with fault := some .notInitialized }) ∧
    (s.fault = none → s.init = true → s.phase = .idle ∨ s.phase = .addr ∨ s.phase = .rd →
      exec .stop s = .next { s with fault := some .framing })

/-- 40_bus_transport R108: WRITE_BYTE loads TXD and transmits the byte unchanged, whatever it is, and holds the host; in
ADDR its bit 0 gives the direction and its address is not checked; NOT_INITIALIZED before INIT, FRAMING in IDLE, RD and
RD_DONE. -/
def Obligations.WriteByteTransmits : Prop :=
  ∀ (s : State) (b : Byte),
    encode (.writeByte b) = 0x50#8 ++ b ∧
    (s.init = true → s.phase = .addr →
      exec (.writeByte b) s = .next
        { s with
          txd := b, trace := s.trace ++ [.write b], phase := if b.getLsbD 0 then .rd else .wr, busy := .txWait } ∧
      State.hostHeld
        { s with
          txd := b, trace := s.trace ++ [.write b], phase := if b.getLsbD 0 then .rd else .wr, busy := .txWait }) ∧
    (s.init = true → s.phase = .wr →
      exec (.writeByte b) s = .next { s with txd := b, trace := s.trace ++ [.write b], busy := .txWait } ∧
      State.hostHeld { s with txd := b, trace := s.trace ++ [.write b], busy := .txWait }) ∧
    (s.fault = none → s.init = false → exec (.writeByte b) s = .next { s with fault := some .notInitialized }) ∧
    (s.fault = none → s.init = true → s.phase = .idle ∨ s.phase = .rd ∨ s.phase = .rdDone →
      exec (.writeByte b) s = .next { s with fault := some .framing })

/-- 40_bus_transport R110: READ_BYTE triggers one receive cycle in RD and holds the host; NOT_INITIALIZED before INIT,
FRAMING in every other phase. Its wait never hangs: it ends in one step, which returns the slave's byte in RES where the
receive was ready (R111). -/
def Obligations.ReadByteTriggersReceive : Prop :=
  encode .readByte = 0x6000 ∧
  ∀ s : State,
    (s.init = true → s.phase = .rd →
      exec .readByte s = .next { s with trace := s.trace ++ [.read], phase := .rdDone, busy := .rxDelay } ∧
      State.hostHeld { s with trace := s.trace ++ [.read], phase := .rdDone, busy := .rxDelay }) ∧
    (s.fault = none → s.busy = .rxDelay →
      ∃ t, step s = .next t ∧ (t.busy = .none ∨ t.fault = some .unlatchedRead) ∧
        (s.params.rxDelaySufficient = true ∨ s.rxReadyDraw = true →
          t.busy = .none ∧ t.res = s.rxByteDraw ∧ t.resv = true)) ∧
    (s.fault = none → s.init = false → exec .readByte s = .next { s with fault := some .notInitialized }) ∧
    (s.fault = none → s.init = true → s.phase ≠ .rd → exec .readByte s = .next { s with fault := some .framing })

/-- 40_bus_transport R114: the framing table, cell by cell: with INIT = 1 each bus command takes each phase to the phase
of its cell without a fault, or raises FRAMING and writes nothing else. -/
def Obligations.FramingTableHolds : Prop :=
  ∀ s : State, s.init = true → s.fault = none →
    (∀ i ∈ [Instr.start, Instr.restart],
      ∃ t, exec i s = .next t ∧
        match s.phase with
        | .idle => t.phase = .addr ∧ t.fault = none
        | .addr => t = { s with fault := some .framing }
        | .wr => t.phase = .addr ∧ t.fault = none
        | .rd => t = { s with fault := some .framing }
        | .rdDone => t.phase = .addr ∧ t.fault = none) ∧
    (∀ b, ∃ t, exec (.writeByte b) s = .next t ∧
        match s.phase with
        | .idle => t = { s with fault := some .framing }
        | .addr => t.fault = none ∧ (b.getLsbD 0 = false → t.phase = .wr) ∧ (b.getLsbD 0 = true → t.phase = .rd)
        | .wr => t.phase = .wr ∧ t.fault = none
        | .rd => t = { s with fault := some .framing }
        | .rdDone => t = { s with fault := some .framing }) ∧
    (∃ t, exec .readByte s = .next t ∧
        match s.phase with
        | .idle => t = { s with fault := some .framing }
        | .addr => t = { s with fault := some .framing }
        | .wr => t = { s with fault := some .framing }
        | .rd => t.phase = .rdDone ∧ t.fault = none
        | .rdDone => t = { s with fault := some .framing }) ∧
    (∃ t, exec .stop s = .next t ∧
        match s.phase with
        | .idle => t = { s with fault := some .framing }
        | .addr => t = { s with fault := some .framing }
        | .wr => t.phase = .idle ∧ t.fault = none
        | .rd => t = { s with fault := some .framing }
        | .rdDone => t.phase = .idle ∧ t.fault = none)

/-! ## Completion steps (spec/40_bus_transport.md) -/

/-- 40_bus_transport R102: INIT completion sets BUSY to NONE and writes nothing else. -/
def Obligations.InitCompletionFreesHost : Prop :=
  ∀ s : State, s.fault = none → s.busy = .initDelay → step s = .next { s with busy := .none }

/-- 40_bus_transport R104: START completion is the bus environment's: where it signals, BUSY becomes NONE; where it does
not, the wait goes on and nothing but the model's draw counter moves. -/
def Obligations.StartCompletionAwaitsBus : Prop :=
  ∀ s : State, s.fault = none → s.busy = .startWait →
    step s = .next (if s.busCompletes then { s with busy := .none, draws := s.draws + 1 }
      else { s with draws := s.draws + 1 })

/-- 40_bus_transport R107: STOP completion sets BUSY to NONE; of the block it writes nothing else. What
the reference slave does with the stop, where it is attached, is not R107's: its store and pointer are the model's choice of
log entry 12, the queue of its own changes that of log entry 13. -/
def Obligations.StopCompletionFreesHost : Prop :=
  ∀ s : State, s.fault = none → s.busy = .stopDelay →
    step s = .next
      { s with
        busy := .none,
        chip := if s.env = .reference then s.chip.afterStop (openTransaction s.trace.dropLast) else s.chip }

/-- 40_bus_transport R109, R113: write completion is the bus environment's; it sets BUSY to NONE, and the state after it
is the same for either acknowledgment. What the reference slave does with the byte, where it is
attached, is neither rule's but the model's choice, log entry 12; the draw counter is log entry 4's. -/
def Obligations.WriteCompletionIgnoresAck : Prop :=
  ∀ s : State, s.fault = none → s.busy = .txWait →
    step s = .next
      (if s.busCompletes then
        { s with
          busy := .none,
          chip := if s.env = .reference then s.chip.afterByte (openTransaction s.trace) else s.chip,
          draws := s.draws + 1 }
      else { s with draws := s.draws + 1 }) ∧
    (∀ a : Ack, step s = .next (waitStep s (completeWrite a s.chipAfterByte)))

/-- 40_bus_transport R111: read completion. A receive that is ready, or any with RX_DELAY_SUFFICIENT, latches and returns
the slave's byte; one that is not returns the stale latch, and the late byte may land; with nothing ever latched it
faults, and writes neither RES nor BUSY. The three draws are free. That the reference slave, where it is attached,
loses its pointer and no register now is not R111's but the model's choice, log entry 12. -/
def Obligations.ReadCompletionReturnsLatch : Prop :=
  ∀ s : State, s.fault = none → s.busy = .rxDelay →
    ∃ c, c = (if s.env = .reference then { s.chip with ptr := none } else s.chip) ∧
      step s = .next
        (if s.params.rxDelaySufficient = true ∨ s.rxReadyDraw = true then
          { s with
            rxd := s.rxByteDraw, rxv := true, res := s.rxByteDraw, resv := true, busy := .none, chip := c,
            draws := s.draws + 1 }
        else if s.rxv = true then
          { s with
            rxd := if s.rxLateDraw then s.rxByteDraw else s.rxd, res := s.rxd, resv := true, busy := .none,
            chip := c, draws := s.draws + 1 }
        else { s with fault := some .unlatchedRead, chip := c, draws := s.draws + 1 })

/-- 40_bus_transport R112: no wait has a timeout. A wait in START_WAIT or TX_WAIT is lifted by the environment's completion
alone; where it never comes the host is held for ever, without a fault, whatever the environment is; the delay waits always end. -/
def Obligations.WaitHasNoTimeout : Prop :=
  (∀ s : State, s.fault = none → s.busy = .startWait ∨ s.busy = .txWait →
    ((∀ k, ({ s with draws := s.draws + k } : State).busCompletes = false) →
      ∀ n, runFor n s = .next { s with draws := s.draws + n }) ∧
    (∀ t, step s = .next t → t.fault = none ∧ (t.busy ≠ s.busy → t.busy = .none ∧ s.busCompletes = true))) ∧
  (∀ s : State, s.fault = none → s.busy = .initDelay ∨ s.busy = .stopDelay →
    ∃ t, step s = .next t ∧ t.busy = .none ∧ t.fault = none) ∧
  (∀ s : State, s.fault = none → s.busy = .rxDelay →
    ∃ t, step s = .next t ∧ (t.busy = .none ∨ t.fault = some .unlatchedRead))

/-- 70_reset_and_hazards R247: with a responsive bus every wait ends, and nothing of the block but BUSY has moved. That
no register of the slave has changed either is the model's choice of when in its transaction a byte lands, log entry 12. -/
def Obligations.ResponsiveBusEndsWaits : Prop :=
  ∀ s : State, s.fault = none → s.busy = .startWait ∨ s.busy = .txWait → s.BusResponsive →
    ∃ k c, s.Reaches { s with busy := .none, draws := k, chip := c } ∧ c.reg = s.chip.reg ∧
      (s.busy = .startWait ∨ s.env ≠ .reference → c = s.chip)

/-! ## The codec (spec/41_bcd_codec.md) -/

/-- 41_bcd_codec R140: encode packs the low 4 bits of v / 10 and v % 10, for every byte. -/
def Obligations.EncodePacksDigits : Prop :=
  (∀ v : Byte, (bcdEncode v).toNat = (v.toNat / 10 * 16 + v.toNat % 10) % 256 ∧
    tensField (bcdEncode v) = BitVec.ofNat 4 (v.toNat / 10) ∧ onesField (bcdEncode v) = BitVec.ofNat 4 (v.toNat % 10) ∧
    (v.toNat < 100 → (tensField (bcdEncode v)).toNat = v.toNat / 10 ∧
      (onesField (bcdEncode v)).toNat = v.toNat % 10)) ∧
  bcdEncode 100 = 0xA0 ∧ bcdEncode 159 = 0xF9 ∧ bcdEncode 160 = 0x00 ∧ bcdEncode 255 = 0x95

/-- 41_bcd_codec R141: decode adds ten times the masked tens field and the ones field; bit 7 is ignored in the legacy
mode; nothing is truncated. -/
def Obligations.DecodeAddsMaskedTens : Prop :=
  (∀ b : Byte,
    (bcdDecode .legacy b).toNat = ((tensField b).toNat % 8) * 10 + (onesField b).toNat ∧
    (bcdDecode .corrected b).toNat = (tensField b).toNat * 10 + (onesField b).toNat ∧
    bcdDecode .legacy (b ^^^ 0x80) = bcdDecode .legacy b ∧
    (bcdDecode .legacy b).toNat ≤ 85 ∧ (bcdDecode .corrected b).toNat ≤ 165) ∧
  bcdDecode .legacy 0x0A = 10 ∧ bcdDecode .legacy 0x7F = 85

/-- 41_bcd_codec R142: the mask is 0x7 by default and 0xF in the corrected mode, and the mode never changes in a run. -/
def Obligations.DecodeModeIsFixedForARun : Prop :=
  tensMask .legacy = 0x7 ∧ tensMask .corrected = 0xF ∧ State.reset.params.decodeMode = .legacy ∧
  ∀ s t : State, s.Reaches t → t.params = s.params ∧ t.env = s.env

/-- 41_bcd_codec R143: BCD_ENCODE writes RES and RESV and nothing else, before INIT and in every phase. -/
def Obligations.BcdEncodeWritesResult : Prop :=
  (∀ (s : State) (v : Byte), encode (.bcdEncode v) = 0x80#8 ++ v ∧
    exec (.bcdEncode v) s = .next { s with res := bcdEncode v, resv := true }) ∧
  bcdEncode 0 = 0x00 ∧ bcdEncode 99 = 0x99 ∧ bcdEncode 100 = 0xA0 ∧ bcdEncode 255 = 0x95 ∧ bcdEncode 85 = 0x85

/-- 41_bcd_codec R144: BCD_DECODE writes RES and RESV and nothing else, before INIT and in every phase, in the mode the
run is configured for. -/
def Obligations.BcdDecodeWritesResult : Prop :=
  (∀ (s : State) (b : Byte), encode (.bcdDecode b) = 0x90#8 ++ b ∧
    exec (.bcdDecode b) s = .next { s with res := bcdDecode s.params.decodeMode b, resv := true }) ∧
  bcdDecode .legacy 0x85 = 5 ∧ bcdDecode .legacy 0x80 = 0 ∧ bcdDecode .legacy 0x99 = 19 ∧
  bcdDecode .legacy 0xFF = 85 ∧ bcdDecode .legacy 0x0A = 10 ∧
  bcdDecode .corrected 0x85 = 85 ∧ bcdDecode .corrected 0x99 = 99 ∧ bcdDecode .corrected 0xFF = 165

/-- 41_bcd_codec R145: in the legacy mode decode undoes encode up to 79 and gives v - 80 from 80 to 99; in the corrected
mode it undoes it up to 99. -/
def Obligations.CodecRoundTripLaw : Prop :=
  (∀ v : Byte, v.toNat ≤ 79 → bcdDecode .legacy (bcdEncode v) = v) ∧
  (∀ v : Byte, 80 ≤ v.toNat → v.toNat ≤ 99 → bcdDecode .legacy (bcdEncode v) = v - 80 ∧
    (bcdDecode .legacy (bcdEncode v)).toNat = (v.toNat / 10 % 8) * 10 + v.toNat % 10) ∧
  (∀ v : Byte, v.toNat ≤ 99 → bcdDecode .corrected (bcdEncode v) = v)

/-- 41_bcd_codec R146: decode of encode from 100 on, in the legacy mode. -/
def Obligations.CodecLawAboveNinetyNine : Prop :=
  (∀ v : Byte, 100 ≤ v.toNat →
    (bcdDecode .legacy (bcdEncode v)).toNat = ((v.toNat / 10 % 16) &&& 0x7) * 10 + v.toNat % 10) ∧
  bcdDecode .legacy (bcdEncode 100) = 20

/-- 41_bcd_codec R147, 60_exceptions R206: no codec command faults or stops, whatever its operand, from any state. -/
def Obligations.CodecNeverFaults : Prop :=
  ∀ (s : State) (b : Byte),
    (∃ t, exec (.bcdEncode b) s = .next t ∧ t.fault = s.fault ∧ t.res = bcdEncode b) ∧
    (∃ t, exec (.bcdDecode b) s = .next t ∧ t.fault = s.fault ∧ t.res = bcdDecode s.params.decodeMode b)

/-! ## Faults (spec/60_exceptions.md) -/

/-- 60_exceptions R201: the six codes, and the port that shows them. -/
def Obligations.FaultCodesShowOnPort : Prop :=
  Fault.code .illegalCommand = 1 ∧ Fault.code .notInitialized = 2 ∧ Fault.code .reinit = 3 ∧
  Fault.code .framing = 4 ∧ Fault.code .unlatchedRead = 5 ∧ Fault.code .resUnwritten = 6 ∧
  ∀ s : State, (s.faultPort = 0 ↔ s.fault = none) ∧ ∀ f, s.fault = some f → s.faultPort = f.code

/-- 60_exceptions R202: the first fault stays, nothing else is written by raising it, and no agent has a step after it. -/
def Obligations.FaultFreezesTheMachine : Prop :=
  ∀ (s : State) (f : Fault),
    (s.fault = none → s.raise f = { s with fault := some f }) ∧
    (∀ g, s.fault = some g → s.raise f = s ∧ s.runEnded = false ∧ ∀ n, runFor (n + 1) s = .fault g)

/-- 60_exceptions R203: an illegal word faults as such in every state; before INIT a bus command faults with
NOT_INITIALIZED in every phase; after INIT a second INIT faults with REINIT; FRAMING comes last; UNLATCHED_READ arises in a
read completion alone and RES_UNWRITTEN in a host read alone. -/
def Obligations.FaultChecksAreOrdered : Prop :=
  ∀ s : State, s.fault = none →
    (∀ w why, decode w = .illegal why →
      issue w s = .next { s with hpc := s.hpc + 1, fault := some .illegalCommand }) ∧
    (s.init = false → ∀ b, ∀ i ∈ [Instr.start, Instr.restart, Instr.stop, Instr.writeByte b, Instr.readByte],
      exec i s = .next { s with fault := some .notInitialized }) ∧
    (s.init = true → exec .init s = .next { s with fault := some .reinit }) ∧
    (∀ i t, exec i s = .next t → t.fault = some .framing → s.init = true ∧ i ≠ .init) ∧
    (s.busy ≠ .rxDelay → ∀ t, step s = .next t → t.fault ≠ some .unlatchedRead) ∧
    (∀ t, step s = .next t → t.fault = some .resUnwritten →
      s.busy = .none ∧ ∃ rest, s.host = .readResult :: rest)

/-- 60_exceptions R204: a step that raises a fault writes FAULT, and HPC where it is an issue step, and nothing else of the
block. The host's list, the slave and the model's draw counter are not the block's; that the
slave's registers stay is the model's choice, log entry 12. -/
def Obligations.FaultingStepWritesFaultOnly : Prop :=
  ∀ (s t : State) (f : Fault), step s = .next t → t.fault = some f →
    t = { s with fault := some f, hpc := t.hpc, host := t.host, chip := t.chip, draws := t.draws } ∧
    (t.hpc = s.hpc ∨ t.hpc = s.hpc + 1 ∧ s.busy = .none ∧ ∃ w rest, s.host = .issue w :: rest) ∧
    ∀ a, regRead t.chip.reg a = regRead s.chip.reg a

/-! ## Reset and the invariant -/

/-- 70_reset_and_hazards R240: what reset leaves, where the spec gives a value. -/
def Obligations.ResetLeavesTheSpecsValues : Prop :=
  State.reset.init = false ∧ State.reset.busy = .none ∧ State.reset.phase = .idle ∧ State.reset.rxv = false ∧
  State.reset.resv = false ∧ State.reset.trace = [] ∧ State.reset.fault = none ∧ State.reset.faultPort = 0 ∧
  State.reset.hpc = 0

/-- The invariant holds at reset, and the slave's register memory is canonical there; what that memory holds at reset is the
model's choice, log entry 21. -/
def Obligations.ResetMeetsInvariant : Prop :=
  State.reset.Inv ∧ regsWf State.reset.chip.reg = true

/-- Every step keeps the invariant, from every state that meets it: PHASE is the function of TRACE that 10_state R23 says,
TRACE is framed as 40_bus_transport R114 allows, nothing has happened before INIT, a latched byte came with a result, the
wait in flight fits the phase, and a fault fits the state it froze. -/
def Obligations.StepKeepsInvariant : Prop :=
  ∀ s t : State, s.Inv → step s = .next t → t.Inv

/-- Every step keeps the slave's register memory in its canonical form: offsets strictly rising and below 256, no listed
byte 0. That form, with 0 for a register not listed, is the model's choice, log entry 21. -/
def Obligations.StepKeepsRegisterMemoryCanonical : Prop :=
  ∀ s t : State, regsWf s.chip.reg = true → step s = .next t → regsWf t.chip.reg = true

/-! ## Whole-machine rules: who writes what -/

/-- 10_state R21: nothing clears INIT, and only an INIT command sets it. -/
def Obligations.OnlyInitSetsInit : Prop :=
  ∀ s t : State, step s = .next t →
    (s.init = true → t.init = true) ∧
    (s.init = false → t.init = true → ∃ rest, s.host = .issue (encode .init) :: rest ∧ s.busy = .none)

/-- 10_state R28: TRACE only grows, by one event at a time, and only in an issue step. -/
def Obligations.TraceOnlyGrows : Prop :=
  ∀ s t : State, step s = .next t →
    t.trace = s.trace ∨ (∃ e, t.trace = s.trace ++ [e]) ∧ s.busy = .none ∧ ∃ w rest, s.host = .issue w :: rest

/-- 10_state R26: RES and RESV are written by a read completion, BCD_ENCODE and BCD_DECODE and by nothing else, each write
sets RESV, and nothing clears it. -/
def Obligations.OnlyResultsWriteRes : Prop :=
  ∀ s t : State, step s = .next t →
    (s.resv = true → t.resv = true) ∧
    (t.res ≠ s.res ∨ t.resv ≠ s.resv → t.resv = true ∧
      (s.busy = .rxDelay ∨
       s.busy = .none ∧ ∃ v rest,
         s.host = .issue (encode (.bcdEncode v)) :: rest ∧ t.res = bcdEncode v ∨
         s.host = .issue (encode (.bcdDecode v)) :: rest ∧ t.res = bcdDecode s.params.decodeMode v))

/-- 10_state R24: TXD is written by WRITE_BYTE and by nothing else, with the byte it transmits. -/
def Obligations.OnlyWriteByteLoadsTxd : Prop :=
  ∀ s t : State, step s = .next t → t.txd ≠ s.txd → s.busy = .none ∧
    ∃ b rest, s.host = .issue (encode (.writeByte b)) :: rest ∧ t.txd = b ∧ t.trace = s.trace ++ [.write b]

/-- 10_state R25: RXD and RXV are written by the receive cycle of READ_BYTE and by nothing else; RXD then holds the byte
the slave drove, and RXV is never cleared. -/
def Obligations.OnlyReceiveWritesLatch : Prop :=
  ∀ s t : State, step s = .next t →
    (s.rxv = true → t.rxv = true) ∧
    (t.rxd ≠ s.rxd ∨ t.rxv ≠ s.rxv → s.busy = .rxDelay ∧ t.rxd = s.rxByteDraw ∧ t.rxv = true)

/-- 10_state R27: CFG_DIV is written by INIT and by nothing else, with BUS_CLOCK_DIVISOR. -/
def Obligations.OnlyInitWritesDivisor : Prop :=
  ∀ s t : State, step s = .next t → t.cfgDiv ≠ s.cfgDiv →
    s.init = false ∧ t.init = true ∧ t.cfgDiv = Config.busClockDivisor ∧
    s.busy = .none ∧ ∃ rest, s.host = .issue (encode .init) :: rest

/-- 10_state R30: HPC advances by one when a command is accepted and at no other time. -/
def Obligations.HpcCountsAcceptedCommands : Prop :=
  ∀ s t : State, step s = .next t →
    ((∃ w rest, s.host = .issue w :: rest ∧ s.busy = .none) → t.hpc = s.hpc + 1 ∧ t.host = s.host.tail) ∧
    ((¬ ∃ w rest, s.host = .issue w :: rest ∧ s.busy = .none) → t.hpc = s.hpc)

/-! ## Frames of the commands -/

/-- No command touches the receive latch, the host, the environment, the parameters or the draw counter; every register of
the slave reads as before. -/
def Obligations.CommandsLeaveOtherAgentsAlone : Prop :=
  ∀ (i : Instr) (s t : State), exec i s = .next t →
    t.rxd = s.rxd ∧ t.rxv = s.rxv ∧ t.hpc = s.hpc ∧ t.host = s.host ∧ t.env = s.env ∧ t.params = s.params ∧
    t.draws = s.draws ∧ t.chip = s.chip ∧ ∀ a, regRead t.chip.reg a = regRead s.chip.reg a

/-- The five bus commands leave INIT, CFG_DIV, RES and RESV as they were, and all but WRITE_BYTE leave TXD so; where one
faults it leaves PHASE, BUSY, TXD and TRACE so too. -/
def Obligations.BusCommandFrame : Prop :=
  ∀ (b : Byte) (s t : State),
    ∀ i ∈ [Instr.start, Instr.restart, Instr.stop, Instr.writeByte b, Instr.readByte], exec i s = .next t →
      t.init = s.init ∧ t.cfgDiv = s.cfgDiv ∧ t.res = s.res ∧ t.resv = s.resv ∧
      (i ≠ .writeByte b → t.txd = s.txd) ∧
      (t.fault ≠ s.fault → t.phase = s.phase ∧ t.busy = s.busy ∧ t.txd = s.txd ∧ t.trace = s.trace)

/-- INIT leaves PHASE, TXD, RES, RESV and TRACE as they were. -/
def Obligations.InitFrame : Prop :=
  ∀ s t : State, exec .init s = .next t →
    t.phase = s.phase ∧ t.txd = s.txd ∧ t.res = s.res ∧ t.resv = s.resv ∧ t.trace = s.trace ∧
    (t.fault ≠ s.fault → t.init = s.init ∧ t.cfgDiv = s.cfgDiv ∧ t.busy = s.busy)

/-- The codec commands leave INIT, BUSY, PHASE, TXD, CFG_DIV, TRACE and FAULT as they were. -/
def Obligations.CodecFrame : Prop :=
  ∀ (v : Byte) (s t : State), ∀ i ∈ [Instr.bcdEncode v, Instr.bcdDecode v], exec i s = .next t →
    t.init = s.init ∧ t.busy = s.busy ∧ t.phase = s.phase ∧ t.txd = s.txd ∧ t.cfgDiv = s.cfgDiv ∧
    t.trace = s.trace ∧ t.fault = s.fault

/-! ## Field transactions (spec/42_transactions.md) -/

/-- 42_transactions R160: READ_FIELD, started with INIT = 1 and PHASE = IDLE on a responsive bus, appends exactly its seven
events and ends released, with the byte of its read completion in RES; the only fault it can raise is UNLATCHED_READ, at
its sixth command and where nothing was ever latched. -/
def Obligations.ReadFieldRunsToItsEnd : Prop :=
  (∀ r, (List.range 7).map (fun k => phaseOfTrace ((readFieldEvents r).take (k + 1))) =
    [.addr, .wr, .wr, .addr, .rd, .rdDone, .idle]) ∧
  (∀ r, (readField r).map encode = [0x2000, 0x50D0, 0x50#8 ++ r, 0x3000, 0x50D1, 0x6000, 0x4000]) ∧
  ∀ (s : State) (r : Byte) (rest : List HostStep),
    s.init = true → s.phase = .idle → s.busy = .none → s.fault = none →
    s.host = hostProgram (readField r) ++ rest → s.BusResponsive →
    ∃ u t, s.Reaches u ∧ u.Reaches t ∧
      ((t.fault = none ∧ t.host = rest ∧ t.hpc = s.hpc + 7 ∧ t.phase = .idle ∧ t.busy = .none ∧ t.init = true ∧
          t.trace = s.trace ++ readFieldEvents r ∧ t.txd = devR ∧ t.resv = true ∧
          u.busy = .rxDelay ∧ u.trace = s.trace ++ (readFieldEvents r).take 6 ∧
          t.res = (completeRead u.rxByteDraw u.rxReadyDraw u.rxLateDraw u).res) ∨
       (t.fault = some .unlatchedRead ∧ s.rxv = false ∧ s.params.rxDelaySufficient = false ∧ t.hpc = s.hpc + 6 ∧
          t.trace = s.trace ++ (readFieldEvents r).take 6))

/-- 42_transactions R161: WRITE_FIELD, started with INIT = 1 and PHASE = IDLE on a responsive bus, never faults, appends
exactly its five events and ends released, with RES and RESV unchanged. -/
def Obligations.WriteFieldRunsToItsEnd : Prop :=
  (∀ r v, (List.range 5).map (fun k => phaseOfTrace ((writeFieldEvents r v).take (k + 1))) =
    [.addr, .wr, .wr, .wr, .idle]) ∧
  (∀ r v, (writeField r v).map encode = [0x2000, 0x50D0, 0x50#8 ++ r, 0x50#8 ++ v, 0x4000]) ∧
  ∀ (s : State) (r v : Byte) (rest : List HostStep),
    s.init = true → s.phase = .idle → s.busy = .none → s.fault = none →
    s.host = hostProgram (writeField r v) ++ rest → s.BusResponsive →
    ∃ t, s.Reaches t ∧ t.fault = none ∧ t.host = rest ∧ t.hpc = s.hpc + 5 ∧ t.phase = .idle ∧
      t.busy = .none ∧ t.init = true ∧ t.trace = s.trace ++ writeFieldEvents r v ∧ t.txd = v ∧
      t.res = s.res ∧ t.resv = s.resv ∧ t.rxd = s.rxd ∧ t.rxv = s.rxv

/-- 42_transactions R166: a register of the slave changes only by an addressed write, when the stop of its transaction
completes, and then only the register it names; where the chip changes none by itself (an empty queue, the model's choice,
log entry 13). That the byte lands when the stop completes is the model's choice, log entry 12. -/
def Obligations.RegistersChangeOnlyByAddressedWrite : Prop :=
  ∀ s t : State, s.chip.clock = [] → step s = .next t →
    (∀ a, regRead t.chip.reg a = regRead s.chip.reg a) ∨
    ∃ r v, s.env = .reference ∧ s.busy = .stopDelay ∧
      openTransaction s.trace.dropLast = [.start, .write devW, .write r, .write v] ∧
      regRead t.chip.reg r = v ∧ ∀ a, a ≠ r → regRead t.chip.reg a = regRead s.chip.reg a

/-- 42_transactions R166: with the reference slave attached (its reactions: log entry 12) and no change of its own pending
(log entry 13), a WRITE_FIELD stores its byte in the register it names and in no other. -/
def Obligations.ReferenceSlaveStoresField : Prop :=
  ∀ (s : State) (r v : Byte) (rest : List HostStep),
    s.Inv → s.init = true → s.phase = .idle → s.busy = .none → s.fault = none → s.env = .reference →
    s.chip.clock = [] → s.host = hostProgram (writeField r v) ++ rest →
    ∃ t, s.Reaches t ∧ t.host = rest ∧ t.busy = .none ∧ t.fault = none ∧
      regRead t.chip.reg r = v ∧ ∀ a, a ≠ r → regRead t.chip.reg a = regRead s.chip.reg a

/-- 42_transactions R166: with the reference slave attached (its reactions: log entry 12), no change of its own pending (log
entry 13) and a receive delay that suffices, a READ_FIELD returns the byte of the register it names and changes none. -/
def Obligations.ReferenceSlaveReturnsField : Prop :=
  ∀ (s : State) (r b : Byte) (rest : List HostStep),
    s.Inv → s.init = true → s.phase = .idle → s.busy = .none → s.fault = none → s.env = .reference →
    s.params.rxDelaySufficient = true → s.chip.clock = [] → regRead s.chip.reg r = b →
    s.host = hostProgram (readField r) ++ rest →
    ∃ t, s.Reaches t ∧ t.host = rest ∧ t.busy = .none ∧ t.fault = none ∧
      t.res = b ∧ t.resv = true ∧ t.rxd = b ∧ t.rxv = true ∧
      ∀ a, regRead t.chip.reg a = regRead s.chip.reg a

/-! ## Constants and the wire -/

/-- 20_memory R51 and R52, 30_encoding R80: the chip's two address bytes, the fields of an address byte, and the register
map. -/
def Obligations.AddressesAndRegisterMap : Prop :=
  devW = 0xD0 ∧ devR = 0xD1 ∧ devAddr7 = 0x68 ∧
  (∀ (a : BitVec 7) (rw : Bool), addrField (addressByte a rw) = a ∧ rwField (addressByte a rw) = rw) ∧
  regOffset .seconds = 0x00 ∧ regOffset .minutes = 0x01 ∧ regOffset .hours = 0x02 ∧ regOffset .dayOfWeek = 0x03 ∧
  regOffset .date = 0x04 ∧ regOffset .month = 0x05 ∧ regOffset .year = 0x06 ∧ regOffset .deviceId = 0x0A

/-- 40_bus_transport R115: the wire projection, event by event and in order. That the master sends a bit after a received
byte is PRESUMED, as R115 says (log entry 15). -/
def Obligations.WireProjectionOfTrace : Prop :=
  (∀ (a : Ack) (b : Byte),
    wireOfEvent a .start = [.startCondition] ∧ wireOfEvent a .restart = [.startCondition] ∧
    wireOfEvent a .stop = [.stopCondition] ∧ wireOfEvent a (.write b) = [.masterByte b, .slaveAck] ∧
    wireOfEvent a .read = [.slaveByte, .masterAck a]) ∧
  (∀ a : Ack, wireOfTrace a [] = []) ∧
  (∀ (a : Ack) (t u : List BusEvent), wireOfTrace a (t ++ u) = wireOfTrace a t ++ wireOfTrace a u) ∧
  (∀ (a : Ack) (e : BusEvent), wireOfTrace a [e] = wireOfEvent a e)
end

