-- ==== Sys2Proof/Laws/Decode.lean ====
section
/-! SUPPORT. The fields of a word and the word of its fields. -/

namespace Sys2Proof

/-- The fields of the word with fields `f` are `f`. -/
@[simp] theorem fieldsOf_word (f : CommandFields) : fieldsOf f.word = f := by
  obtain ⟨op, rsv, imm8⟩ := f
  have hop : (op ++ rsv ++ imm8).extractLsb' 12 4 = op := by
    apply BitVec.eq_of_getLsbD_eq
    intro i hi
    have h8 : ¬ (12 + i < 8) := by omega
    have h4 : ¬ (12 + i - 8 < 4) := by omega
    have hsub : 12 + i - 8 - 4 = i := by omega
    rw [BitVec.getLsbD_extractLsb', BitVec.getLsbD_append, BitVec.getLsbD_append]
    simp [h8, h4, hsub, hi]
  have hrsv : (op ++ rsv ++ imm8).extractLsb' 8 4 = rsv := by
    apply BitVec.eq_of_getLsbD_eq
    intro i hi
    have h8 : ¬ (8 + i < 8) := by omega
    have hsub : 8 + i - 8 = i := by omega
    rw [BitVec.getLsbD_extractLsb', BitVec.getLsbD_append, BitVec.getLsbD_append]
    simp [h8, hsub, hi]
  have himm : (op ++ rsv ++ imm8).extractLsb' 0 8 = imm8 := by
    apply BitVec.eq_of_getLsbD_eq
    intro i hi
    rw [BitVec.getLsbD_extractLsb', BitVec.getLsbD_append]
    simp [hi]
  exact congr (congr (congrArg CommandFields.mk hop) hrsv) himm

/-- The word with the fields of `w` is `w`. -/
@[simp] theorem word_fieldsOf (w : CommandWord) : (fieldsOf w).word = w := by
  apply BitVec.eq_of_getLsbD_eq
  intro i hi
  simp only [fieldsOf, CommandFields.word, BitVec.getLsbD_append, BitVec.getLsbD_extractLsb']
  by_cases h8 : i < 8
  · simp [h8]
  · by_cases h12 : i - 8 < 4
    · have hadd : 8 + (i - 8) = i := by omega
      simp [h8, h12, hadd]
    · have hadd : 12 + (i - 8 - 4) = i := by omega
      have hlt : i - 8 - 4 < 4 := by omega
      simp [h8, h12, hadd, hlt]

/-- The decoder on a word given by its fields. -/
theorem decode_word (f : CommandFields) :
    decode f.word =
      match commandOf f.op f.imm8 with
      | none => .illegal .reservedOpcode
      | some i =>
        if f.rsv ≠ 0 then .illegal .reservedField
        else if i.format = .z ∧ f.imm8 ≠ 0 then .illegal .operandNotZero
        else .legal i := by
  cases h : commandOf f.op f.imm8 <;> simp [decode, h]

/-- An opcode names a command exactly when it is assigned (30_encoding R73, R75). -/
theorem commandOf_eq_none_iff (op : BitVec 4) (imm8 : Byte) :
    commandOf op imm8 = none ↔ op.toNat ∉ [0x1, 0x2, 0x3, 0x4, 0x5, 0x6, 0x8, 0x9] := by
  unfold commandOf
  split <;> simp_all

/-- The fields of a command that an opcode and an operand name, once its must-be-zero fields are 0. -/
theorem fields_of_commandOf {f : CommandFields} {i : Instr} (h : commandOf f.op f.imm8 = some i) (hr : f.rsv = 0)
    (hz : i.format = .z → f.imm8 = 0) : i.fields = f := by
  obtain ⟨op, rsv, imm⟩ := f
  simp only at h hr hz
  subst hr
  unfold commandOf at h
  split at h <;> simp only [Option.some.injEq, reduceCtorEq] at h <;> subst h <;>
    simp_all [Instr.fields, Instr.format] <;> exact BitVec.eq_of_toNat_eq (by simp_all)

end Sys2Proof
end

