-- ==== Sys2Proof/Laws/State.lean ====
section
/-! SUPPORT. What each named update of the state does to each field: one lemma per update and field, true by unfolding, so
that no later proof unfolds a record update. -/

namespace Sys2Proof.Machine

variable (s : State)

@[simp] theorem State.raise_init (f : Fault) : (s.raise f).init = s.init := rfl
@[simp] theorem State.raise_busy (f : Fault) : (s.raise f).busy = s.busy := rfl
@[simp] theorem State.raise_phase (f : Fault) : (s.raise f).phase = s.phase := rfl
@[simp] theorem State.raise_txd (f : Fault) : (s.raise f).txd = s.txd := rfl
@[simp] theorem State.raise_rxd (f : Fault) : (s.raise f).rxd = s.rxd := rfl
@[simp] theorem State.raise_rxv (f : Fault) : (s.raise f).rxv = s.rxv := rfl
@[simp] theorem State.raise_res (f : Fault) : (s.raise f).res = s.res := rfl
@[simp] theorem State.raise_resv (f : Fault) : (s.raise f).resv = s.resv := rfl
@[simp] theorem State.raise_cfgDiv (f : Fault) : (s.raise f).cfgDiv = s.cfgDiv := rfl
@[simp] theorem State.raise_trace (f : Fault) : (s.raise f).trace = s.trace := rfl
@[simp] theorem State.raise_fault (f : Fault) : (s.raise f).fault = s.fault.or (some f) := rfl
@[simp] theorem State.raise_hpc (f : Fault) : (s.raise f).hpc = s.hpc := rfl
@[simp] theorem State.raise_host (f : Fault) : (s.raise f).host = s.host := rfl
@[simp] theorem State.raise_env (f : Fault) : (s.raise f).env = s.env := rfl
@[simp] theorem State.raise_chip (f : Fault) : (s.raise f).chip = s.chip := rfl
@[simp] theorem State.raise_params (f : Fault) : (s.raise f).params = s.params := rfl
@[simp] theorem State.raise_draws (f : Fault) : (s.raise f).draws = s.draws := rfl

@[simp] theorem State.emit_init (e : BusEvent) : (s.emit e).init = s.init := rfl
@[simp] theorem State.emit_busy (e : BusEvent) : (s.emit e).busy = s.busy := rfl
@[simp] theorem State.emit_phase (e : BusEvent) : (s.emit e).phase = s.phase := rfl
@[simp] theorem State.emit_txd (e : BusEvent) : (s.emit e).txd = s.txd := rfl
@[simp] theorem State.emit_rxd (e : BusEvent) : (s.emit e).rxd = s.rxd := rfl
@[simp] theorem State.emit_rxv (e : BusEvent) : (s.emit e).rxv = s.rxv := rfl
@[simp] theorem State.emit_res (e : BusEvent) : (s.emit e).res = s.res := rfl
@[simp] theorem State.emit_resv (e : BusEvent) : (s.emit e).resv = s.resv := rfl
@[simp] theorem State.emit_cfgDiv (e : BusEvent) : (s.emit e).cfgDiv = s.cfgDiv := rfl
@[simp] theorem State.emit_trace (e : BusEvent) : (s.emit e).trace = s.trace ++ [e] := rfl
@[simp] theorem State.emit_fault (e : BusEvent) : (s.emit e).fault = s.fault := rfl
@[simp] theorem State.emit_hpc (e : BusEvent) : (s.emit e).hpc = s.hpc := rfl
@[simp] theorem State.emit_host (e : BusEvent) : (s.emit e).host = s.host := rfl
@[simp] theorem State.emit_env (e : BusEvent) : (s.emit e).env = s.env := rfl
@[simp] theorem State.emit_chip (e : BusEvent) : (s.emit e).chip = s.chip := rfl
@[simp] theorem State.emit_params (e : BusEvent) : (s.emit e).params = s.params := rfl
@[simp] theorem State.emit_draws (e : BusEvent) : (s.emit e).draws = s.draws := rfl

@[simp] theorem State.setPhase_init (p : Phase) : (s.setPhase p).init = s.init := rfl
@[simp] theorem State.setPhase_busy (p : Phase) : (s.setPhase p).busy = s.busy := rfl
@[simp] theorem State.setPhase_phase (p : Phase) : (s.setPhase p).phase = p := rfl
@[simp] theorem State.setPhase_txd (p : Phase) : (s.setPhase p).txd = s.txd := rfl
@[simp] theorem State.setPhase_rxd (p : Phase) : (s.setPhase p).rxd = s.rxd := rfl
@[simp] theorem State.setPhase_rxv (p : Phase) : (s.setPhase p).rxv = s.rxv := rfl
@[simp] theorem State.setPhase_res (p : Phase) : (s.setPhase p).res = s.res := rfl
@[simp] theorem State.setPhase_resv (p : Phase) : (s.setPhase p).resv = s.resv := rfl
@[simp] theorem State.setPhase_cfgDiv (p : Phase) : (s.setPhase p).cfgDiv = s.cfgDiv := rfl
@[simp] theorem State.setPhase_trace (p : Phase) : (s.setPhase p).trace = s.trace := rfl
@[simp] theorem State.setPhase_fault (p : Phase) : (s.setPhase p).fault = s.fault := rfl
@[simp] theorem State.setPhase_hpc (p : Phase) : (s.setPhase p).hpc = s.hpc := rfl
@[simp] theorem State.setPhase_host (p : Phase) : (s.setPhase p).host = s.host := rfl
@[simp] theorem State.setPhase_env (p : Phase) : (s.setPhase p).env = s.env := rfl
@[simp] theorem State.setPhase_chip (p : Phase) : (s.setPhase p).chip = s.chip := rfl
@[simp] theorem State.setPhase_params (p : Phase) : (s.setPhase p).params = s.params := rfl
@[simp] theorem State.setPhase_draws (p : Phase) : (s.setPhase p).draws = s.draws := rfl

@[simp] theorem State.setBusy_init (b : Busy) : (s.setBusy b).init = s.init := rfl
@[simp] theorem State.setBusy_busy (b : Busy) : (s.setBusy b).busy = b := rfl
@[simp] theorem State.setBusy_phase (b : Busy) : (s.setBusy b).phase = s.phase := rfl
@[simp] theorem State.setBusy_txd (b : Busy) : (s.setBusy b).txd = s.txd := rfl
@[simp] theorem State.setBusy_rxd (b : Busy) : (s.setBusy b).rxd = s.rxd := rfl
@[simp] theorem State.setBusy_rxv (b : Busy) : (s.setBusy b).rxv = s.rxv := rfl
@[simp] theorem State.setBusy_res (b : Busy) : (s.setBusy b).res = s.res := rfl
@[simp] theorem State.setBusy_resv (b : Busy) : (s.setBusy b).resv = s.resv := rfl
@[simp] theorem State.setBusy_cfgDiv (b : Busy) : (s.setBusy b).cfgDiv = s.cfgDiv := rfl
@[simp] theorem State.setBusy_trace (b : Busy) : (s.setBusy b).trace = s.trace := rfl
@[simp] theorem State.setBusy_fault (b : Busy) : (s.setBusy b).fault = s.fault := rfl
@[simp] theorem State.setBusy_hpc (b : Busy) : (s.setBusy b).hpc = s.hpc := rfl
@[simp] theorem State.setBusy_host (b : Busy) : (s.setBusy b).host = s.host := rfl
@[simp] theorem State.setBusy_env (b : Busy) : (s.setBusy b).env = s.env := rfl
@[simp] theorem State.setBusy_chip (b : Busy) : (s.setBusy b).chip = s.chip := rfl
@[simp] theorem State.setBusy_params (b : Busy) : (s.setBusy b).params = s.params := rfl
@[simp] theorem State.setBusy_draws (b : Busy) : (s.setBusy b).draws = s.draws := rfl

@[simp] theorem State.setTxd_init (b : Byte) : (s.setTxd b).init = s.init := rfl
@[simp] theorem State.setTxd_busy (b : Byte) : (s.setTxd b).busy = s.busy := rfl
@[simp] theorem State.setTxd_phase (b : Byte) : (s.setTxd b).phase = s.phase := rfl
@[simp] theorem State.setTxd_txd (b : Byte) : (s.setTxd b).txd = b := rfl
@[simp] theorem State.setTxd_rxd (b : Byte) : (s.setTxd b).rxd = s.rxd := rfl
@[simp] theorem State.setTxd_rxv (b : Byte) : (s.setTxd b).rxv = s.rxv := rfl
@[simp] theorem State.setTxd_res (b : Byte) : (s.setTxd b).res = s.res := rfl
@[simp] theorem State.setTxd_resv (b : Byte) : (s.setTxd b).resv = s.resv := rfl
@[simp] theorem State.setTxd_cfgDiv (b : Byte) : (s.setTxd b).cfgDiv = s.cfgDiv := rfl
@[simp] theorem State.setTxd_trace (b : Byte) : (s.setTxd b).trace = s.trace := rfl
@[simp] theorem State.setTxd_fault (b : Byte) : (s.setTxd b).fault = s.fault := rfl
@[simp] theorem State.setTxd_hpc (b : Byte) : (s.setTxd b).hpc = s.hpc := rfl
@[simp] theorem State.setTxd_host (b : Byte) : (s.setTxd b).host = s.host := rfl
@[simp] theorem State.setTxd_env (b : Byte) : (s.setTxd b).env = s.env := rfl
@[simp] theorem State.setTxd_chip (b : Byte) : (s.setTxd b).chip = s.chip := rfl
@[simp] theorem State.setTxd_params (b : Byte) : (s.setTxd b).params = s.params := rfl
@[simp] theorem State.setTxd_draws (b : Byte) : (s.setTxd b).draws = s.draws := rfl

@[simp] theorem State.latch_init (b : Byte) : (s.latch b).init = s.init := rfl
@[simp] theorem State.latch_busy (b : Byte) : (s.latch b).busy = s.busy := rfl
@[simp] theorem State.latch_phase (b : Byte) : (s.latch b).phase = s.phase := rfl
@[simp] theorem State.latch_txd (b : Byte) : (s.latch b).txd = s.txd := rfl
@[simp] theorem State.latch_rxd (b : Byte) : (s.latch b).rxd = b := rfl
@[simp] theorem State.latch_rxv (b : Byte) : (s.latch b).rxv = true := rfl
@[simp] theorem State.latch_res (b : Byte) : (s.latch b).res = s.res := rfl
@[simp] theorem State.latch_resv (b : Byte) : (s.latch b).resv = s.resv := rfl
@[simp] theorem State.latch_cfgDiv (b : Byte) : (s.latch b).cfgDiv = s.cfgDiv := rfl
@[simp] theorem State.latch_trace (b : Byte) : (s.latch b).trace = s.trace := rfl
@[simp] theorem State.latch_fault (b : Byte) : (s.latch b).fault = s.fault := rfl
@[simp] theorem State.latch_hpc (b : Byte) : (s.latch b).hpc = s.hpc := rfl
@[simp] theorem State.latch_host (b : Byte) : (s.latch b).host = s.host := rfl
@[simp] theorem State.latch_env (b : Byte) : (s.latch b).env = s.env := rfl
@[simp] theorem State.latch_chip (b : Byte) : (s.latch b).chip = s.chip := rfl
@[simp] theorem State.latch_params (b : Byte) : (s.latch b).params = s.params := rfl
@[simp] theorem State.latch_draws (b : Byte) : (s.latch b).draws = s.draws := rfl

@[simp] theorem State.latchLate_init (b : Byte) : (s.latchLate b).init = s.init := rfl
@[simp] theorem State.latchLate_busy (b : Byte) : (s.latchLate b).busy = s.busy := rfl
@[simp] theorem State.latchLate_phase (b : Byte) : (s.latchLate b).phase = s.phase := rfl
@[simp] theorem State.latchLate_txd (b : Byte) : (s.latchLate b).txd = s.txd := rfl
@[simp] theorem State.latchLate_rxd (b : Byte) : (s.latchLate b).rxd = b := rfl
@[simp] theorem State.latchLate_rxv (b : Byte) : (s.latchLate b).rxv = s.rxv := rfl
@[simp] theorem State.latchLate_res (b : Byte) : (s.latchLate b).res = s.res := rfl
@[simp] theorem State.latchLate_resv (b : Byte) : (s.latchLate b).resv = s.resv := rfl
@[simp] theorem State.latchLate_cfgDiv (b : Byte) : (s.latchLate b).cfgDiv = s.cfgDiv := rfl
@[simp] theorem State.latchLate_trace (b : Byte) : (s.latchLate b).trace = s.trace := rfl
@[simp] theorem State.latchLate_fault (b : Byte) : (s.latchLate b).fault = s.fault := rfl
@[simp] theorem State.latchLate_hpc (b : Byte) : (s.latchLate b).hpc = s.hpc := rfl
@[simp] theorem State.latchLate_host (b : Byte) : (s.latchLate b).host = s.host := rfl
@[simp] theorem State.latchLate_env (b : Byte) : (s.latchLate b).env = s.env := rfl
@[simp] theorem State.latchLate_chip (b : Byte) : (s.latchLate b).chip = s.chip := rfl
@[simp] theorem State.latchLate_params (b : Byte) : (s.latchLate b).params = s.params := rfl
@[simp] theorem State.latchLate_draws (b : Byte) : (s.latchLate b).draws = s.draws := rfl

@[simp] theorem State.setRes_init (b : Byte) : (s.setRes b).init = s.init := rfl
@[simp] theorem State.setRes_busy (b : Byte) : (s.setRes b).busy = s.busy := rfl
@[simp] theorem State.setRes_phase (b : Byte) : (s.setRes b).phase = s.phase := rfl
@[simp] theorem State.setRes_txd (b : Byte) : (s.setRes b).txd = s.txd := rfl
@[simp] theorem State.setRes_rxd (b : Byte) : (s.setRes b).rxd = s.rxd := rfl
@[simp] theorem State.setRes_rxv (b : Byte) : (s.setRes b).rxv = s.rxv := rfl
@[simp] theorem State.setRes_res (b : Byte) : (s.setRes b).res = b := rfl
@[simp] theorem State.setRes_resv (b : Byte) : (s.setRes b).resv = true := rfl
@[simp] theorem State.setRes_cfgDiv (b : Byte) : (s.setRes b).cfgDiv = s.cfgDiv := rfl
@[simp] theorem State.setRes_trace (b : Byte) : (s.setRes b).trace = s.trace := rfl
@[simp] theorem State.setRes_fault (b : Byte) : (s.setRes b).fault = s.fault := rfl
@[simp] theorem State.setRes_hpc (b : Byte) : (s.setRes b).hpc = s.hpc := rfl
@[simp] theorem State.setRes_host (b : Byte) : (s.setRes b).host = s.host := rfl
@[simp] theorem State.setRes_env (b : Byte) : (s.setRes b).env = s.env := rfl
@[simp] theorem State.setRes_chip (b : Byte) : (s.setRes b).chip = s.chip := rfl
@[simp] theorem State.setRes_params (b : Byte) : (s.setRes b).params = s.params := rfl
@[simp] theorem State.setRes_draws (b : Byte) : (s.setRes b).draws = s.draws := rfl

@[simp] theorem State.configure_init : (s.configure).init = true := rfl
@[simp] theorem State.configure_busy : (s.configure).busy = s.busy := rfl
@[simp] theorem State.configure_phase : (s.configure).phase = s.phase := rfl
@[simp] theorem State.configure_txd : (s.configure).txd = s.txd := rfl
@[simp] theorem State.configure_rxd : (s.configure).rxd = s.rxd := rfl
@[simp] theorem State.configure_rxv : (s.configure).rxv = s.rxv := rfl
@[simp] theorem State.configure_res : (s.configure).res = s.res := rfl
@[simp] theorem State.configure_resv : (s.configure).resv = s.resv := rfl
@[simp] theorem State.configure_cfgDiv : (s.configure).cfgDiv = Config.busClockDivisor := rfl
@[simp] theorem State.configure_trace : (s.configure).trace = s.trace := rfl
@[simp] theorem State.configure_fault : (s.configure).fault = s.fault := rfl
@[simp] theorem State.configure_hpc : (s.configure).hpc = s.hpc := rfl
@[simp] theorem State.configure_host : (s.configure).host = s.host := rfl
@[simp] theorem State.configure_env : (s.configure).env = s.env := rfl
@[simp] theorem State.configure_chip : (s.configure).chip = s.chip := rfl
@[simp] theorem State.configure_params : (s.configure).params = s.params := rfl
@[simp] theorem State.configure_draws : (s.configure).draws = s.draws := rfl

@[simp] theorem State.drawn_init : (s.drawn).init = s.init := rfl
@[simp] theorem State.drawn_busy : (s.drawn).busy = s.busy := rfl
@[simp] theorem State.drawn_phase : (s.drawn).phase = s.phase := rfl
@[simp] theorem State.drawn_txd : (s.drawn).txd = s.txd := rfl
@[simp] theorem State.drawn_rxd : (s.drawn).rxd = s.rxd := rfl
@[simp] theorem State.drawn_rxv : (s.drawn).rxv = s.rxv := rfl
@[simp] theorem State.drawn_res : (s.drawn).res = s.res := rfl
@[simp] theorem State.drawn_resv : (s.drawn).resv = s.resv := rfl
@[simp] theorem State.drawn_cfgDiv : (s.drawn).cfgDiv = s.cfgDiv := rfl
@[simp] theorem State.drawn_trace : (s.drawn).trace = s.trace := rfl
@[simp] theorem State.drawn_fault : (s.drawn).fault = s.fault := rfl
@[simp] theorem State.drawn_hpc : (s.drawn).hpc = s.hpc := rfl
@[simp] theorem State.drawn_host : (s.drawn).host = s.host := rfl
@[simp] theorem State.drawn_env : (s.drawn).env = s.env := rfl
@[simp] theorem State.drawn_chip : (s.drawn).chip = s.chip := rfl
@[simp] theorem State.drawn_params : (s.drawn).params = s.params := rfl
@[simp] theorem State.drawn_draws : (s.drawn).draws = s.draws + 1 := rfl

@[simp] theorem State.setChip_init (c : Chip) : (s.setChip c).init = s.init := rfl
@[simp] theorem State.setChip_busy (c : Chip) : (s.setChip c).busy = s.busy := rfl
@[simp] theorem State.setChip_phase (c : Chip) : (s.setChip c).phase = s.phase := rfl
@[simp] theorem State.setChip_txd (c : Chip) : (s.setChip c).txd = s.txd := rfl
@[simp] theorem State.setChip_rxd (c : Chip) : (s.setChip c).rxd = s.rxd := rfl
@[simp] theorem State.setChip_rxv (c : Chip) : (s.setChip c).rxv = s.rxv := rfl
@[simp] theorem State.setChip_res (c : Chip) : (s.setChip c).res = s.res := rfl
@[simp] theorem State.setChip_resv (c : Chip) : (s.setChip c).resv = s.resv := rfl
@[simp] theorem State.setChip_cfgDiv (c : Chip) : (s.setChip c).cfgDiv = s.cfgDiv := rfl
@[simp] theorem State.setChip_trace (c : Chip) : (s.setChip c).trace = s.trace := rfl
@[simp] theorem State.setChip_fault (c : Chip) : (s.setChip c).fault = s.fault := rfl
@[simp] theorem State.setChip_hpc (c : Chip) : (s.setChip c).hpc = s.hpc := rfl
@[simp] theorem State.setChip_host (c : Chip) : (s.setChip c).host = s.host := rfl
@[simp] theorem State.setChip_env (c : Chip) : (s.setChip c).env = s.env := rfl
@[simp] theorem State.setChip_chip (c : Chip) : (s.setChip c).chip = c := rfl
@[simp] theorem State.setChip_params (c : Chip) : (s.setChip c).params = s.params := rfl
@[simp] theorem State.setChip_draws (c : Chip) : (s.setChip c).draws = s.draws := rfl

@[simp] theorem State.popHost_init : (s.popHost).init = s.init := rfl
@[simp] theorem State.popHost_busy : (s.popHost).busy = s.busy := rfl
@[simp] theorem State.popHost_phase : (s.popHost).phase = s.phase := rfl
@[simp] theorem State.popHost_txd : (s.popHost).txd = s.txd := rfl
@[simp] theorem State.popHost_rxd : (s.popHost).rxd = s.rxd := rfl
@[simp] theorem State.popHost_rxv : (s.popHost).rxv = s.rxv := rfl
@[simp] theorem State.popHost_res : (s.popHost).res = s.res := rfl
@[simp] theorem State.popHost_resv : (s.popHost).resv = s.resv := rfl
@[simp] theorem State.popHost_cfgDiv : (s.popHost).cfgDiv = s.cfgDiv := rfl
@[simp] theorem State.popHost_trace : (s.popHost).trace = s.trace := rfl
@[simp] theorem State.popHost_fault : (s.popHost).fault = s.fault := rfl
@[simp] theorem State.popHost_hpc : (s.popHost).hpc = s.hpc := rfl
@[simp] theorem State.popHost_host : (s.popHost).host = s.host.tail := rfl
@[simp] theorem State.popHost_env : (s.popHost).env = s.env := rfl
@[simp] theorem State.popHost_chip : (s.popHost).chip = s.chip := rfl
@[simp] theorem State.popHost_params : (s.popHost).params = s.params := rfl
@[simp] theorem State.popHost_draws : (s.popHost).draws = s.draws := rfl

@[simp] theorem State.advance_init : (s.advance).init = s.init := rfl
@[simp] theorem State.advance_busy : (s.advance).busy = s.busy := rfl
@[simp] theorem State.advance_phase : (s.advance).phase = s.phase := rfl
@[simp] theorem State.advance_txd : (s.advance).txd = s.txd := rfl
@[simp] theorem State.advance_rxd : (s.advance).rxd = s.rxd := rfl
@[simp] theorem State.advance_rxv : (s.advance).rxv = s.rxv := rfl
@[simp] theorem State.advance_res : (s.advance).res = s.res := rfl
@[simp] theorem State.advance_resv : (s.advance).resv = s.resv := rfl
@[simp] theorem State.advance_cfgDiv : (s.advance).cfgDiv = s.cfgDiv := rfl
@[simp] theorem State.advance_trace : (s.advance).trace = s.trace := rfl
@[simp] theorem State.advance_fault : (s.advance).fault = s.fault := rfl
@[simp] theorem State.advance_hpc : (s.advance).hpc = s.hpc + 1 := rfl
@[simp] theorem State.advance_host : (s.advance).host = s.host := rfl
@[simp] theorem State.advance_env : (s.advance).env = s.env := rfl
@[simp] theorem State.advance_chip : (s.advance).chip = s.chip := rfl
@[simp] theorem State.advance_params : (s.advance).params = s.params := rfl
@[simp] theorem State.advance_draws : (s.advance).draws = s.draws := rfl

end Sys2Proof.Machine
end

