-- ==== Sys2Proof/Laws/Memory.lean ====
section
/-! SUPPORT. The reference slave's register memory: a read after a write, and that every operation keeps the canonical
form. -/

namespace Sys2Proof.Machine

theorem regsFrom_cons {lo : Nat} {c : Host.Cell} {rest : List Host.Cell} :
    regsFrom lo (c :: rest) = true ↔
      lo ≤ c.1 ∧ c.1 < 256 ∧ c.2 ≠ regUnlisted ∧ regsFrom (c.1 + 1) rest = true := by
  simp [regsFrom, and_assoc]

theorem regsFrom_mono {m : List Host.Cell} {lo lo' : Nat} (h : lo ≤ lo') (hm : regsFrom lo' m = true) :
    regsFrom lo m = true := by
  cases m with
  | nil => rfl
  | cons c rest => rw [regsFrom_cons] at hm ⊢; exact ⟨h.trans hm.1, hm.2⟩

theorem regsFrom_cellWrite {m : List Host.Cell} {lo a : Nat} {v : Byte} (hv : v ≠ regUnlisted) (hlo : lo ≤ a)
    (ha : a < 256) (hm : regsFrom lo m = true) : regsFrom lo (cellWrite m a v) = true := by
  induction m generalizing lo with
  | nil => simp [cellWrite, regsFrom, hlo, ha, hv]
  | cons c rest ih =>
    obtain ⟨h1, h2, h3, h4⟩ := regsFrom_cons.1 hm
    simp only [cellWrite]
    split
    · exact regsFrom_cons.2 ⟨hlo, ha, hv, regsFrom_cons.2 ⟨by omega, h2, h3, h4⟩⟩
    · split
      · rename_i heq
        exact regsFrom_cons.2 ⟨hlo, ha, hv, heq ▸ h4⟩
      · exact regsFrom_cons.2 ⟨h1, h2, h3, ih (by omega) h4⟩

theorem regsFrom_cellErase {m : List Host.Cell} {lo : Nat} (a : Nat) (hm : regsFrom lo m = true) :
    regsFrom lo (cellErase m a) = true := by
  induction m generalizing lo with
  | nil => rfl
  | cons c rest ih =>
    obtain ⟨h1, h2, h3, h4⟩ := regsFrom_cons.1 hm
    cases hc : (c.1 != a) with
    | true => simpa [cellErase, hc] using regsFrom_cons.2 ⟨h1, h2, h3, ih h4⟩
    | false => simpa [cellErase, hc] using regsFrom_mono (by omega) (ih h4)

/-- A write keeps the canonical form. -/
theorem regWrite_wf {m : List Host.Cell} (a v : Byte) (hm : regsWf m = true) : regsWf (regWrite m a v) = true := by
  unfold regWrite
  split
  · exact regsFrom_cellErase _ hm
  · rename_i hv
    exact regsFrom_cellWrite hv (Nat.zero_le _) a.isLt hm

theorem find_cellWrite_same (m : List Host.Cell) (a : Nat) (v : Byte) :
    (cellWrite m a v).find? (fun c => c.1 == a) = some (a, v) := by
  induction m with
  | nil => simp [cellWrite]
  | cons c rest ih =>
    obtain ⟨a', v'⟩ := c
    simp only [cellWrite]
    split
    · simp
    · split
      · simp
      · rename_i _ hne
        rw [List.find?_cons_of_neg (by simpa using Ne.symm hne)]
        exact ih

theorem find_cellWrite_other {m : List Host.Cell} {a b : Nat} (v : Byte) (h : a ≠ b) :
    (cellWrite m a v).find? (fun c => c.1 == b) = m.find? (fun c => c.1 == b) := by
  induction m with
  | nil => simp [cellWrite, h]
  | cons c rest ih =>
    obtain ⟨a', v'⟩ := c
    simp only [cellWrite]
    split
    · simp [h]
    · split
      · rename_i _ heq
        subst heq
        simp [h]
      · simp only [List.find?_cons, ih]

theorem find_cellErase_same (m : List Host.Cell) (a : Nat) : (cellErase m a).find? (fun c => c.1 == a) = none := by
  simp [cellErase]

theorem find_cellErase_other {m : List Host.Cell} {a b : Nat} (h : a ≠ b) :
    (cellErase m a).find? (fun c => c.1 == b) = m.find? (fun c => c.1 == b) := by
  induction m with
  | nil => rfl
  | cons c rest ih =>
    by_cases hc : c.1 = a
    · simpa [cellErase, hc, h] using ih
    · simp only [cellErase] at ih
      simp only [cellErase, List.filter_cons, bne_iff_ne, ne_eq, hc, not_false_eq_true, ↓reduceIte, List.find?_cons, ih]

/-- A read after a write to the same register gives the byte written. -/
@[simp] theorem regRead_regWrite_same (m : List Host.Cell) (a v : Byte) : regRead (regWrite m a v) a = v := by
  unfold regRead regWrite
  split_ifs with hv
  · rw [find_cellErase_same]; exact hv.symm
  · rw [find_cellWrite_same]

/-- A write leaves every other register alone. -/
theorem regRead_regWrite_other (m : List Host.Cell) {a b : Byte} (v : Byte) (h : b ≠ a) :
    regRead (regWrite m a v) b = regRead m b := by
  have hn : a.toNat ≠ b.toNat := fun he => h (BitVec.eq_of_toNat_eq he.symm)
  unfold regRead regWrite
  split_ifs
  · rw [find_cellErase_other hn]
  · rw [find_cellWrite_other v hn]

theorem regWrites_wf (us : List (Byte × Byte)) {m : List Host.Cell} (hm : regsWf m = true) :
    regsWf (us.foldl (fun m u => regWrite m u.1 u.2) m) = true := by
  induction us generalizing m with
  | nil => exact hm
  | cons u us ih => exact ih (regWrite_wf u.1 u.2 hm)

theorem Chip.afterByte_reg (c : Chip) (t : List BusEvent) : (c.afterByte t).reg = c.reg := by
  unfold Chip.afterByte
  split
  · split <;> rfl
  · rfl
  · rfl

@[simp] theorem Chip.afterRead_reg (c : Chip) : c.afterRead.reg = c.reg := rfl

/-- A stop stores at most one byte: the data byte of an addressed write, at its register. -/
theorem Chip.store_cases (c : Chip) (t : List BusEvent) :
    c.store t = c ∨
    ∃ r v, t = [.start, .write devW, .write r, .write v] ∧ c.store t = { c with reg := regWrite c.reg r v } := by
  unfold Chip.store
  split
  · rename_i a r v
    split
    · rename_i h
      subst h
      exact .inr ⟨r, v, rfl, rfl⟩
    · exact .inl rfl
  · exact .inl rfl

/-- With no change of the chip's own pending, a stop leaves every register but the one an addressed write stores to. -/
theorem Chip.afterStop_regs (c : Chip) (t : List BusEvent) (h : c.clock = []) :
    (c.afterStop t).reg = c.reg ∨
    ∃ r v, t = [.start, .write devW, .write r, .write v] ∧ (c.afterStop t).reg = regWrite c.reg r v := by
  rcases Chip.store_cases c t with hs | ⟨r, v, ht, hs⟩
  · exact .inl (by simp [Chip.afterStop, Chip.tick, hs, h])
  · exact .inr ⟨r, v, ht, by simp [Chip.afterStop, Chip.tick, hs, h]⟩

theorem Chip.afterStop_wf {c : Chip} (t : List BusEvent) (h : regsWf c.reg = true) :
    regsWf (c.afterStop t).reg = true := by
  rcases Chip.store_cases c t with hs | ⟨r, v, -, hs⟩
  · simpa [Chip.afterStop, Chip.tick, hs] using regWrites_wf _ h
  · simpa [Chip.afterStop, Chip.tick, hs] using regWrites_wf _ (regWrite_wf r v h)

/-- The environment's part of a completion step changes the chip alone, and only where the reference slave is attached. -/
theorem State.reacts_cases (s : State) (c : Chip) :
    (s.env = .reference ∧ s.reacts c = s.setChip c) ∨ (s.env ≠ .reference ∧ s.reacts c = s) := by
  unfold State.reacts
  split <;> rename_i h <;> simp [h]

/-! The reaction of the environment leaves every field but the chip alone. -/

@[simp] theorem State.reacts_init (s : State) (c : Chip) : (s.reacts c).init = s.init := by
  unfold State.reacts; split <;> rfl
@[simp] theorem State.reacts_busy (s : State) (c : Chip) : (s.reacts c).busy = s.busy := by
  unfold State.reacts; split <;> rfl
@[simp] theorem State.reacts_phase (s : State) (c : Chip) : (s.reacts c).phase = s.phase := by
  unfold State.reacts; split <;> rfl
@[simp] theorem State.reacts_txd (s : State) (c : Chip) : (s.reacts c).txd = s.txd := by
  unfold State.reacts; split <;> rfl
@[simp] theorem State.reacts_rxd (s : State) (c : Chip) : (s.reacts c).rxd = s.rxd := by
  unfold State.reacts; split <;> rfl
@[simp] theorem State.reacts_rxv (s : State) (c : Chip) : (s.reacts c).rxv = s.rxv := by
  unfold State.reacts; split <;> rfl
@[simp] theorem State.reacts_res (s : State) (c : Chip) : (s.reacts c).res = s.res := by
  unfold State.reacts; split <;> rfl
@[simp] theorem State.reacts_resv (s : State) (c : Chip) : (s.reacts c).resv = s.resv := by
  unfold State.reacts; split <;> rfl
@[simp] theorem State.reacts_cfgDiv (s : State) (c : Chip) : (s.reacts c).cfgDiv = s.cfgDiv := by
  unfold State.reacts; split <;> rfl
@[simp] theorem State.reacts_trace (s : State) (c : Chip) : (s.reacts c).trace = s.trace := by
  unfold State.reacts; split <;> rfl
@[simp] theorem State.reacts_fault (s : State) (c : Chip) : (s.reacts c).fault = s.fault := by
  unfold State.reacts; split <;> rfl
@[simp] theorem State.reacts_hpc (s : State) (c : Chip) : (s.reacts c).hpc = s.hpc := by
  unfold State.reacts; split <;> rfl
@[simp] theorem State.reacts_host (s : State) (c : Chip) : (s.reacts c).host = s.host := by
  unfold State.reacts; split <;> rfl
@[simp] theorem State.reacts_env (s : State) (c : Chip) : (s.reacts c).env = s.env := by
  unfold State.reacts; split <;> rfl
@[simp] theorem State.reacts_params (s : State) (c : Chip) : (s.reacts c).params = s.params := by
  unfold State.reacts; split <;> rfl
@[simp] theorem State.reacts_draws (s : State) (c : Chip) : (s.reacts c).draws = s.draws := by
  unfold State.reacts; split <;> rfl

theorem State.reacts_eq_setChip (s : State) (c : Chip) : s.reacts c = s.setChip (s.reacts c).chip := by
  unfold State.reacts; split <;> rfl

theorem State.reacts_chip (s : State) (c : Chip) (h : s.env ≠ .reference) : (s.reacts c).chip = s.chip := by
  rcases State.reacts_cases s c with ⟨hr, -⟩ | ⟨-, hs⟩
  · exact absurd hr h
  · rw [hs]

theorem State.reacts_chip_reference (s : State) (c : Chip) (h : s.env = .reference) : (s.reacts c).chip = c := by
  rcases State.reacts_cases s c with ⟨-, hs⟩ | ⟨hr, -⟩
  · rw [hs]; rfl
  · exact absurd h hr

end Sys2Proof.Machine
end

