-- ==== Sys2Proof/Laws/Ops.lean ====
section
/-! SUPPORT. What the shared operations of Machine/Ops.lean can do, said once. -/

namespace Sys2Proof.Machine

theorem State.raise_of_no_fault {s : State} (f : Fault) (h : s.fault = none) :
    s.raise f = { s with fault := some f } := by
  simp [State.raise, h]

/-- A later fault never replaces the first one (60_exceptions R202). -/
theorem State.raise_of_fault {s : State} {g : Fault} (f : Fault) (h : s.fault = some g) : s.raise f = s := by
  cases s; simp_all [State.raise]

theorem State.loadTxd_write (s : State) (b : Byte) : s.loadTxd (.write b) = s.setTxd b := rfl

/-- Loading the transmit register touches TXD alone. -/
theorem State.loadTxd_eq (s : State) (e : BusEvent) : ∃ b, s.loadTxd e = s.setTxd b := by
  cases e with
  | write b => exact ⟨b, rfl⟩
  | start | restart | stop | read => exact ⟨s.txd, rfl⟩

/-! Loading the transmit register leaves every field but TXD alone. -/

@[simp] theorem State.loadTxd_init (s : State) (e : BusEvent) : (s.loadTxd e).init = s.init := by cases e <;> rfl
@[simp] theorem State.loadTxd_busy (s : State) (e : BusEvent) : (s.loadTxd e).busy = s.busy := by cases e <;> rfl
@[simp] theorem State.loadTxd_phase (s : State) (e : BusEvent) : (s.loadTxd e).phase = s.phase := by cases e <;> rfl
@[simp] theorem State.loadTxd_rxd (s : State) (e : BusEvent) : (s.loadTxd e).rxd = s.rxd := by cases e <;> rfl
@[simp] theorem State.loadTxd_rxv (s : State) (e : BusEvent) : (s.loadTxd e).rxv = s.rxv := by cases e <;> rfl
@[simp] theorem State.loadTxd_res (s : State) (e : BusEvent) : (s.loadTxd e).res = s.res := by cases e <;> rfl
@[simp] theorem State.loadTxd_resv (s : State) (e : BusEvent) : (s.loadTxd e).resv = s.resv := by cases e <;> rfl
@[simp] theorem State.loadTxd_cfgDiv (s : State) (e : BusEvent) : (s.loadTxd e).cfgDiv = s.cfgDiv := by cases e <;> rfl
@[simp] theorem State.loadTxd_trace (s : State) (e : BusEvent) : (s.loadTxd e).trace = s.trace := by cases e <;> rfl
@[simp] theorem State.loadTxd_fault (s : State) (e : BusEvent) : (s.loadTxd e).fault = s.fault := by cases e <;> rfl
@[simp] theorem State.loadTxd_hpc (s : State) (e : BusEvent) : (s.loadTxd e).hpc = s.hpc := by cases e <;> rfl
@[simp] theorem State.loadTxd_host (s : State) (e : BusEvent) : (s.loadTxd e).host = s.host := by cases e <;> rfl
@[simp] theorem State.loadTxd_env (s : State) (e : BusEvent) : (s.loadTxd e).env = s.env := by cases e <;> rfl
@[simp] theorem State.loadTxd_chip (s : State) (e : BusEvent) : (s.loadTxd e).chip = s.chip := by cases e <;> rfl
@[simp] theorem State.loadTxd_params (s : State) (e : BusEvent) : (s.loadTxd e).params = s.params := by cases e <;> rfl
@[simp] theorem State.loadTxd_draws (s : State) (e : BusEvent) : (s.loadTxd e).draws = s.draws := by cases e <;> rfl

/-- The state a bus command leaves when both checks pass. -/
def State.issued (s : State) (e : BusEvent) (p : Phase) (wait : Busy) : State :=
  (((s.loadTxd e).emit e).setPhase p).setBusy wait

theorem busCommand_of_legal {e : BusEvent} {w : Busy} {s : State} {p : Phase} (hi : s.init = true)
    (hp : framing s.phase e = some p) : busCommand e w s = s.issued e p w := by
  simp [busCommand, State.issued, hi, hp]

theorem busCommand_of_framing {e : BusEvent} {w : Busy} {s : State} (hi : s.init = true)
    (hp : framing s.phase e = none) : busCommand e w s = s.raise .framing := by
  simp [busCommand, hi, hp]

theorem busCommand_of_uninitialized {e : BusEvent} {w : Busy} {s : State} (hi : s.init = false) :
    busCommand e w s = s.raise .notInitialized := by
  simp [busCommand, hi]

/-- Everything the issue step of a bus command can do. -/
theorem busCommand_cases (e : BusEvent) (w : Busy) (s : State) :
    (s.init = false ∧ busCommand e w s = s.raise .notInitialized) ∨
    (s.init = true ∧ framing s.phase e = none ∧ busCommand e w s = s.raise .framing) ∨
    (s.init = true ∧ ∃ p, framing s.phase e = some p ∧ busCommand e w s = s.issued e p w) := by
  cases hi : s.init with
  | false => exact .inl ⟨rfl, busCommand_of_uninitialized hi⟩
  | true =>
    cases hp : framing s.phase e with
    | none => exact .inr (.inl ⟨rfl, rfl, busCommand_of_framing hi hp⟩)
    | some p => exact .inr (.inr ⟨rfl, p, rfl, busCommand_of_legal hi hp⟩)

end Sys2Proof.Machine
end

