-- ==== Sys2Proof/Laws/PerInstr.lean ====
section
/-! SUPPORT. Facts about every command as syntax, one lemma per constructor: its word belongs to its row of the opcode map
(spec/30_encoding.md R73), and to its row only. -/

namespace Sys2Proof.Laws.OpcodeMatch

/-- The word of the command belongs to exactly the rows of its own mnemonic. -/
def Statement (i : Instr) : Prop :=
  ∀ r ∈ opcodeTable, r.hits (encode i) = decide (r.mnemonic = i.mnemonic)

theorem init : Statement .init := by unfold Statement; decide
theorem start : Statement .start := by unfold Statement; decide
theorem restart : Statement .restart := by unfold Statement; decide
theorem stop : Statement .stop := by unfold Statement; decide
theorem writeByte (b : Byte) : Statement (.writeByte b) := by unfold Statement; revert b; decide
theorem readByte : Statement .readByte := by unfold Statement; decide
theorem bcdEncode (v : Byte) : Statement (.bcdEncode v) := by unfold Statement; revert v; decide
theorem bcdDecode (b : Byte) : Statement (.bcdDecode b) := by unfold Statement; revert b; decide

end Sys2Proof.Laws.OpcodeMatch
end

