-- ==== Sys2Proof/Laws/Step.lean ====
section
/-! SUPPORT. What one step of the machine can do, by the agent that moves. -/

namespace Sys2Proof.Machine

/-- The state a command leaves. -/
def State.after (i : Instr) (s : State) : State :=
  match i with
  | .init => if s.init then s.raise .reinit else s.configure.setBusy .initDelay
  | .start => busCommand .start .startWait s
  | .restart => busCommand .restart .startWait s
  | .stop => busCommand .stop .stopDelay s
  | .writeByte b => busCommand (.write b) .txWait s
  | .readByte => busCommand .read .rxDelay s
  | .bcdEncode v => s.setRes (bcdEncode v)
  | .bcdDecode b => s.setRes (bcdDecode s.params.decodeMode b)

/-- Every command answers a next state; none stops the machine. -/
theorem exec_eq_next (i : Instr) (s : State) : exec i s = .next (s.after i) := by
  cases i <;> rfl

theorem step_of_fault {s : State} {f : Fault} (h : s.fault = some f) : step s = .fault f := by
  simp [step, agentStep, h]

theorem step_of_idle {s : State} (hf : s.fault = none) (hb : s.busy = .none) : step s = hostStep s := by
  simp [step, agentStep, hf, hb]

theorem step_of_initDelay {s : State} (hf : s.fault = none) (hb : s.busy = .initDelay) :
    step s = .next (completeInit s) := by
  simp [step, agentStep, hf, hb]

theorem step_of_startWait {s : State} (hf : s.fault = none) (hb : s.busy = .startWait) :
    step s = .next (waitStep s (completeStart s)) := by
  simp [step, agentStep, hf, hb]

theorem step_of_txWait {s : State} (hf : s.fault = none) (hb : s.busy = .txWait) :
    step s = .next (waitStep s (completeWrite s.ackDraw s.chipAfterByte)) := by
  simp [step, agentStep, hf, hb]

theorem step_of_rxDelay {s : State} (hf : s.fault = none) (hb : s.busy = .rxDelay) :
    step s = .next (completeRead s.rxByteDraw s.rxReadyDraw s.rxLateDraw s.chipAfterRead).drawn := by
  simp [step, agentStep, hf, hb]

theorem step_of_stopDelay {s : State} (hf : s.fault = none) (hb : s.busy = .stopDelay) :
    step s = .next (completeStop s.chipAfterStop) := by
  simp [step, agentStep, hf, hb]

theorem issue_of_legal {w : CommandWord} {i : Instr} (s : State) (h : decode w = .legal i) :
    issue w s = exec i s.advance := by
  simp [issue, h]

theorem issue_of_illegal {w : CommandWord} {why : Illegal} (s : State) (h : decode w = .illegal why) :
    issue w s = .next (s.advance.raise .illegalCommand) := by
  simp [issue, h]

/-! ## Every next state of a command -/

/-- The event a bus command emits and the wait it holds the host in; `none` for the other commands. -/
def busEventOf : Instr → Option (BusEvent × Busy)
  | .start => some (.start, .startWait)
  | .restart => some (.restart, .startWait)
  | .stop => some (.stop, .stopDelay)
  | .writeByte b => some (.write b, .txWait)
  | .readByte => some (.read, .rxDelay)
  | .init => none
  | .bcdEncode _ => none
  | .bcdDecode _ => none

/-- The result a codec command writes; `none` for the other commands. -/
def resultOf (m : DecodeMode) : Instr → Option Byte
  | .bcdEncode v => some (bcdEncode v)
  | .bcdDecode b => some (bcdDecode m b)
  | .init => none
  | .start => none
  | .restart => none
  | .stop => none
  | .writeByte _ => none
  | .readByte => none

/-- All that a command can leave. -/
inductive CommandLeaves (i : Instr) (s : State) : State → Prop where
  | configured (hi : i = .init) (h0 : s.init = false) : CommandLeaves i s (s.configure.setBusy .initDelay)
  | reinit (hi : i = .init) (h1 : s.init = true) : CommandLeaves i s (s.raise .reinit)
  | uninitialized (e : BusEvent) (w : Busy) (he : busEventOf i = some (e, w)) (h0 : s.init = false) :
      CommandLeaves i s (s.raise .notInitialized)
  | misframed (e : BusEvent) (w : Busy) (he : busEventOf i = some (e, w)) (h1 : s.init = true)
      (hp : framing s.phase e = none) : CommandLeaves i s (s.raise .framing)
  | issued (e : BusEvent) (w : Busy) (p : Phase) (he : busEventOf i = some (e, w)) (h1 : s.init = true)
      (hp : framing s.phase e = some p) : CommandLeaves i s (s.issued e p w)
  | result (b : Byte) (hb : resultOf s.params.decodeMode i = some b) : CommandLeaves i s (s.setRes b)

theorem busCommand_leaves {i : Instr} {e : BusEvent} {w : Busy} (s : State) (he : busEventOf i = some (e, w)) :
    CommandLeaves i s (busCommand e w s) := by
  rcases busCommand_cases e w s with ⟨h, hs⟩ | ⟨h, hp, hs⟩ | ⟨h, p, hp, hs⟩ <;> rw [hs]
  · exact .uninitialized e w he h
  · exact .misframed e w he h hp
  · exact .issued e w p he h hp

theorem after_leaves (i : Instr) (s : State) : CommandLeaves i s (s.after i) := by
  cases i with
  | init =>
    cases h : s.init with
    | false => simpa [State.after, h] using CommandLeaves.configured rfl h
    | true => simpa [State.after, h] using CommandLeaves.reinit rfl h
  | start | restart | stop | readByte => exact busCommand_leaves s rfl
  | writeByte b => exact busCommand_leaves s rfl
  | bcdEncode v => exact .result _ rfl
  | bcdDecode b => exact .result _ rfl

theorem exec_leaves {i : Instr} {s t : State} (h : exec i s = .next t) : CommandLeaves i s t := by
  rw [exec_eq_next] at h
  cases h
  exact after_leaves i s

/-! The late byte of a stale read leaves every field but RXD alone. -/

@[simp] theorem State.lateByte_init (s : State) (b : Byte) (late : Bool) : (s.lateByte b late).init = s.init := by
  cases late <;> rfl
@[simp] theorem State.lateByte_busy (s : State) (b : Byte) (late : Bool) : (s.lateByte b late).busy = s.busy := by
  cases late <;> rfl
@[simp] theorem State.lateByte_phase (s : State) (b : Byte) (late : Bool) : (s.lateByte b late).phase = s.phase := by
  cases late <;> rfl
@[simp] theorem State.lateByte_txd (s : State) (b : Byte) (late : Bool) : (s.lateByte b late).txd = s.txd := by
  cases late <;> rfl
@[simp] theorem State.lateByte_rxv (s : State) (b : Byte) (late : Bool) : (s.lateByte b late).rxv = s.rxv := by
  cases late <;> rfl
@[simp] theorem State.lateByte_res (s : State) (b : Byte) (late : Bool) : (s.lateByte b late).res = s.res := by
  cases late <;> rfl
@[simp] theorem State.lateByte_resv (s : State) (b : Byte) (late : Bool) : (s.lateByte b late).resv = s.resv := by
  cases late <;> rfl
@[simp] theorem State.lateByte_cfgDiv (s : State) (b : Byte) (late : Bool) : (s.lateByte b late).cfgDiv = s.cfgDiv := by
  cases late <;> rfl
@[simp] theorem State.lateByte_trace (s : State) (b : Byte) (late : Bool) : (s.lateByte b late).trace = s.trace := by
  cases late <;> rfl
@[simp] theorem State.lateByte_fault (s : State) (b : Byte) (late : Bool) : (s.lateByte b late).fault = s.fault := by
  cases late <;> rfl
@[simp] theorem State.lateByte_hpc (s : State) (b : Byte) (late : Bool) : (s.lateByte b late).hpc = s.hpc := by
  cases late <;> rfl
@[simp] theorem State.lateByte_host (s : State) (b : Byte) (late : Bool) : (s.lateByte b late).host = s.host := by
  cases late <;> rfl
@[simp] theorem State.lateByte_env (s : State) (b : Byte) (late : Bool) : (s.lateByte b late).env = s.env := by
  cases late <;> rfl
@[simp] theorem State.lateByte_chip (s : State) (b : Byte) (late : Bool) : (s.lateByte b late).chip = s.chip := by
  cases late <;> rfl
@[simp] theorem State.lateByte_params (s : State) (b : Byte) (late : Bool) : (s.lateByte b late).params = s.params := by
  cases late <;> rfl
@[simp] theorem State.lateByte_draws (s : State) (b : Byte) (late : Bool) : (s.lateByte b late).draws = s.draws := by
  cases late <;> rfl
@[simp] theorem State.lateByte_rxd (s : State) (b : Byte) (late : Bool) :
    (s.lateByte b late).rxd = if late then b else s.rxd := by
  cases late <;> rfl

/-- Everything a read completion can do to the state (40_bus_transport R111). -/
theorem completeRead_cases (b : Byte) (ready late : Bool) (s : State) :
    ((s.params.rxDelaySufficient || ready) = true ∧
      completeRead b ready late s = ((s.latch b).setRes b).setBusy .none) ∨
    ((s.params.rxDelaySufficient || ready) = false ∧ s.rxv = true ∧
      completeRead b ready late s = ((s.setRes s.rxd).lateByte b late).setBusy .none) ∨
    ((s.params.rxDelaySufficient || ready) = false ∧ s.rxv = false ∧
      completeRead b ready late s = s.raise .unlatchedRead) := by
  unfold completeRead
  cases h : (s.params.rxDelaySufficient || ready) <;> cases hv : s.rxv <;> simp

/-! ## Every next state of a step -/

/-- All that a step can lead to, by the agent that moves. -/
inductive StepLeaves (s : State) : State → Prop where
  | idle (hb : s.busy = .none) (hh : s.host = []) : StepLeaves s s
  | resultRead (rest : List HostStep) (hb : s.busy = .none) (hh : s.host = .readResult :: rest) (hv : s.resv = true) :
      StepLeaves s s.popHost
  | resultUnwritten (rest : List HostStep) (hb : s.busy = .none) (hh : s.host = .readResult :: rest)
      (hv : s.resv = false) : StepLeaves s (s.popHost.raise .resUnwritten)
  | illegal (w : CommandWord) (rest : List HostStep) (why : Illegal) (hb : s.busy = .none)
      (hh : s.host = .issue w :: rest) (hd : decode w = .illegal why) :
      StepLeaves s (s.popHost.advance.raise .illegalCommand)
  | command (w : CommandWord) (rest : List HostStep) (i : Instr) (t : State) (hb : s.busy = .none)
      (hh : s.host = .issue w :: rest) (hd : decode w = .legal i) (ht : CommandLeaves i s.popHost.advance t) :
      StepLeaves s t
  | initDone (hb : s.busy = .initDelay) : StepLeaves s (s.setBusy .none)
  | waits (hb : s.busy = .startWait ∨ s.busy = .txWait) (hc : s.busCompletes = false) : StepLeaves s s.drawn
  | startDone (hb : s.busy = .startWait) (hc : s.busCompletes = true) : StepLeaves s (s.setBusy .none).drawn
  | writeDone (hb : s.busy = .txWait) (hc : s.busCompletes = true) :
      StepLeaves s (s.chipAfterByte.setBusy .none).drawn
  | readFresh (hb : s.busy = .rxDelay) (hr : (s.params.rxDelaySufficient || s.rxReadyDraw) = true) :
      StepLeaves s (((s.chipAfterRead.latch s.rxByteDraw).setRes s.rxByteDraw).setBusy .none).drawn
  | readStale (hb : s.busy = .rxDelay) (hr : (s.params.rxDelaySufficient || s.rxReadyDraw) = false)
      (hv : s.rxv = true) :
      StepLeaves s (((s.chipAfterRead.setRes s.rxd).lateByte s.rxByteDraw s.rxLateDraw).setBusy .none).drawn
  | readUnlatched (hb : s.busy = .rxDelay) (hr : (s.params.rxDelaySufficient || s.rxReadyDraw) = false)
      (hv : s.rxv = false) : StepLeaves s (s.chipAfterRead.raise .unlatchedRead).drawn
  | stopDone (hb : s.busy = .stopDelay) : StepLeaves s (s.chipAfterStop.setBusy .none)

/-- A wait step's two outcomes. -/
theorem waitStep_cases (s lifted : State) :
    (s.busCompletes = true ∧ waitStep s lifted = lifted.drawn) ∨
    (s.busCompletes = false ∧ waitStep s lifted = s.drawn) := by
  unfold waitStep
  cases h : s.busCompletes <;> simp

theorem hostStep_leaves {s t : State} (hb : s.busy = .none) (h : hostStep s = .next t) : StepLeaves s t := by
  unfold hostStep at h
  split at h
  · rename_i hh
    cases h
    exact .idle hb hh
  · rename_i rest hh
    cases h
    unfold readResult State.resultRead
    cases hv : s.resv with
    | true => simpa [hv] using StepLeaves.resultRead rest hb hh hv
    | false => simpa [hv] using StepLeaves.resultUnwritten rest hb hh hv
  · rename_i w rest hh
    cases hd : decode w with
    | legal i => rw [issue_of_legal _ hd] at h; exact .command w rest i t hb hh hd (exec_leaves h)
    | illegal why => rw [issue_of_illegal _ hd] at h; cases h; exact .illegal w rest why hb hh hd

theorem completeRead_leaves {s : State} (hb : s.busy = .rxDelay) :
    StepLeaves s (completeRead s.rxByteDraw s.rxReadyDraw s.rxLateDraw s.chipAfterRead).drawn := by
  rcases completeRead_cases s.rxByteDraw s.rxReadyDraw s.rxLateDraw s.chipAfterRead with
    ⟨hr, hs⟩ | ⟨hr, hv, hs⟩ | ⟨hr, hv, hs⟩ <;> rw [hs]
  · exact .readFresh hb (by simpa [State.chipAfterRead] using hr)
  · have hd : s.chipAfterRead.rxd = s.rxd := by simp [State.chipAfterRead]
    rw [hd]
    exact .readStale hb (by simpa [State.chipAfterRead] using hr) (by simpa [State.chipAfterRead] using hv)
  · exact .readUnlatched hb (by simpa [State.chipAfterRead] using hr) (by simpa [State.chipAfterRead] using hv)

/-- Everything one step can do. No step is taken after a fault (60_exceptions R202). -/
theorem step_leaves {s t : State} (h : step s = .next t) : s.fault = none ∧ StepLeaves s t := by
  cases hf : s.fault with
  | some f => rw [step_of_fault hf] at h; cases h
  | none =>
    refine ⟨rfl, ?_⟩
    cases hb : s.busy with
    | none => rw [step_of_idle hf hb] at h; exact hostStep_leaves hb h
    | initDelay => rw [step_of_initDelay hf hb] at h; cases h; exact .initDone hb
    | startWait =>
      rw [step_of_startWait hf hb] at h
      cases h
      rcases waitStep_cases s (completeStart s) with ⟨hc, hs⟩ | ⟨hc, hs⟩ <;> rw [hs]
      · exact .startDone hb hc
      · exact .waits (.inl hb) hc
    | txWait =>
      rw [step_of_txWait hf hb] at h
      cases h
      rcases waitStep_cases s (completeWrite s.ackDraw s.chipAfterByte) with ⟨hc, hs⟩ | ⟨hc, hs⟩ <;> rw [hs]
      · exact .writeDone hb hc
      · exact .waits (.inr hb) hc
    | rxDelay => rw [step_of_rxDelay hf hb] at h; cases h; exact completeRead_leaves hb
    | stopDelay => rw [step_of_stopDelay hf hb] at h; cases h; exact .stopDone hb

end Sys2Proof.Machine
end

