-- ==== Sys2Proof/Laws/Run.lean ====
section
/-! SUPPORT. Runs of the machine, and the induction over them packaged once. -/

namespace Sys2Proof.Machine

@[simp] theorem runFor_zero (s : State) : runFor 0 s = .next s := rfl

/-- Running on from a next state. -/
theorem runFor_of_step {s t : State} (h : step s = .next t) (n : Nat) : runFor (n + 1) s = runFor n t := by
  simp [runFor, Host.Core.run, core, h]

/-- A run of one step more goes through a next state. -/
theorem runFor_succ_next {n : Nat} {s t : State} (h : runFor (n + 1) s = .next t) :
    ∃ u, step s = .next u ∧ runFor n u = .next t := by
  cases hs : step s with
  | next u => exact ⟨u, rfl, by rw [← runFor_of_step hs n]; exact h⟩
  | fault f => simp [runFor, Host.Core.run, core, hs] at h
  | refused r => simp [runFor, Host.Core.run, core, hs] at h

theorem runFor_of_fault {s : State} {f : Fault} (h : s.fault = some f) (n : Nat) : runFor (n + 1) s = .fault f := by
  simp [runFor, Host.Core.run, core, step_of_fault h]

theorem runFor_add {m : Nat} {s t : State} (h : runFor m s = .next t) (n : Nat) : runFor (m + n) s = runFor n t := by
  induction m generalizing s with
  | zero => cases h; rw [Nat.zero_add]
  | succ m ih =>
    obtain ⟨u, hu, ht⟩ := runFor_succ_next h
    rw [Nat.add_right_comm, runFor_of_step hu]
    exact ih ht

theorem State.Reaches.refl (s : State) : s.Reaches s := ⟨0, rfl⟩

theorem State.Reaches.of_step {s t : State} (h : step s = .next t) : s.Reaches t :=
  ⟨1, by rw [runFor_of_step h]; rfl⟩

theorem State.Reaches.trans {s t u : State} (h : s.Reaches t) (h' : t.Reaches u) : s.Reaches u := by
  obtain ⟨m, hm⟩ := h
  obtain ⟨n, hn⟩ := h'
  exact ⟨m + n, by rw [runFor_add hm, hn]⟩

/-- What every step keeps holds of every state reached. -/
theorem State.Reaches.keeps {P : State → Prop} (hP : ∀ s t, P s → step s = .next t → P t) {s t : State}
    (h : s.Reaches t) (hs : P s) : P t := by
  obtain ⟨n, hn⟩ := h
  induction n generalizing s with
  | zero => cases hn; exact hs
  | succ n ih =>
    obtain ⟨u, hu, ht⟩ := runFor_succ_next hn
    exact ih (hP s u hs hu) ht

end Sys2Proof.Machine
end

