-- ==== Sys2Proof/Laws/Trace.lean ====
section
/-! SUPPORT. How the functions of TRACE move when one event is appended, and that the framing table agrees with the phase
they give. -/

namespace Sys2Proof.Machine

@[simp] theorem phaseOfTrace_append (t : List BusEvent) (e : BusEvent) :
    phaseOfTrace (t ++ [e]) = phaseAfter (phaseOfTrace t) e := by
  simp [phaseOfTrace]

/-- Where the table allows an event, the new phase is the one TRACE gives (40_bus_transport R114, 10_state R23). -/
theorem framing_eq_phaseAfter {p q : Phase} {e : BusEvent} (h : framing p e = some q) : q = phaseAfter p e := by
  cases e with
  | write b =>
    cases p with
    | addr => simp only [framing] at h; simp only [phaseAfter]; split at h <;> simp_all
    | idle | wr | rd | rdDone => cases h <;> rfl
  | start | restart | stop | read => cases p <;> simp_all [framing, phaseAfter]

theorem wellFramedFrom_append (p : Phase) (t : List BusEvent) (e : BusEvent) :
    wellFramedFrom p (t ++ [e]) = (wellFramedFrom p t && (framing (t.foldl phaseAfter p) e).isSome) := by
  induction t generalizing p with
  | nil => simp [wellFramedFrom]
  | cons x t ih => simp [wellFramedFrom, ih, Bool.and_assoc]

theorem openTransaction_append (t : List BusEvent) (e : BusEvent) :
    openTransaction (t ++ [e]) = if e = .stop then [] else openTransaction t ++ [e] := by
  simp [openTransaction]

/-- More events after a trace: the transaction goes on from where it stood. -/
theorem openTransaction_append_list (t u : List BusEvent) :
    openTransaction (t ++ u) = u.foldl (fun acc e => if e = .stop then [] else acc ++ [e]) (openTransaction t) := by
  simp [openTransaction]

end Sys2Proof.Machine
end

