-- ==== Sys2Proof/Machine/Assembler.lean ====
section
/-! DEFINITION. The assembler syntax of spec/30_encoding.md R77 with the pseudo-commands of R78, on lists of characters.
What R77 leaves open (spaces, capitals, leading zeros) is log entry 14. -/

namespace Sys2Proof.Machine

/-- The characters of a line before its comment (30_encoding R77: comments start with a semicolon). -/
def uncommented (line : List Char) : List Char := line.takeWhile (fun c => c != ';')

/-- A blank, a tab or the comma between two operands. -/
def separates (c : Char) : Bool := c == ' ' || c == ',' || c == '\t'

/-- The words of a line, split at separators. -/
def wordsOf (line : List Char) : List (List Char) :=
  (line.foldr (fun c acc =>
    if separates c then [] :: acc
    else match acc with
      | [] => [[c]]
      | w :: rest => (c :: w) :: rest) [[]]).filter (fun w => w != [])

/-- The value of a digit, decimal or hexadecimal in either case. -/
def digitValue (c : Char) : Option Nat :=
  if '0' ≤ c ∧ c ≤ '9' then some (c.toNat - '0'.toNat)
  else if 'a' ≤ c ∧ c ≤ 'f' then some (c.toNat - 'a'.toNat + 10)
  else if 'A' ≤ c ∧ c ≤ 'F' then some (c.toNat - 'A'.toNat + 10)
  else none

/-- The number the digits write in a base, continuing `acc`; `none` at the first character that is no digit of it. -/
def numberFrom (base : Nat) : Nat → List Char → Option Nat
  | acc, [] => some acc
  | acc, c :: cs =>
    match digitValue c with
    | some d => if d < base then numberFrom base (acc * base + d) cs else none
    | none => none

/-- A number of at least one digit that fits a byte. -/
def byteNumber (base : Nat) (digits : List Char) : Option Byte :=
  match digits with
  | [] => none
  | c :: cs => (numberFrom base 0 (c :: cs)).bind (fun n => if n < 256 then some (BitVec.ofNat 8 n) else none)

/-- The named constants of an operand (30_encoding R77; 20_memory R51, R52). -/
def namedConstants : List (List Char × Byte) :=
  [ ("DEV_W".toList, devW), ("DEV_R".toList, devR),
    ("REG_SECONDS".toList, regOffset .seconds), ("REG_MINUTES".toList, regOffset .minutes),
    ("REG_HOURS".toList, regOffset .hours), ("REG_DAY_OF_WEEK".toList, regOffset .dayOfWeek),
    ("REG_DATE".toList, regOffset .date), ("REG_MONTH".toList, regOffset .month),
    ("REG_YEAR".toList, regOffset .year), ("REG_DEVICE_ID".toList, regOffset .deviceId) ]

/-- An operand: a named constant, a hexadecimal literal after 0x, or a decimal one. -/
def operandOf (w : List Char) : Option Byte :=
  match namedConstants.lookup w with
  | some b => some b
  | none =>
    match w with
    | '0' :: 'x' :: digits => byteNumber 16 digits
    | digits => byteNumber 10 digits

/-- The commands without an operand, by mnemonic (30_encoding R73). -/
def plainCommands : List (List Char × Instr) :=
  [ ("INIT".toList, .init), ("START".toList, .start), ("RESTART".toList, .restart), ("STOP".toList, .stop),
    ("READ_BYTE".toList, .readByte) ]

/-- A mnemonic with one operand: the three format B commands and READ_FIELD (30_encoding R73, R78). -/
def oneOperand (m : List Char) (b : Byte) : Option (List Instr) :=
  if m = "WRITE_BYTE".toList then some [.writeByte b]
  else if m = "BCD_ENCODE".toList then some [.bcdEncode b]
  else if m = "BCD_DECODE".toList then some [.bcdDecode b]
  else if m = "READ_FIELD".toList then some (readField b)
  else none

/-- The commands of one line; none at all for a blank line or a comment, a refusal for anything else R77 does not give. -/
def assembleLine (line : List Char) : Option (List Instr) :=
  match wordsOf (uncommented line) with
  | [] => some []
  | [m] => (plainCommands.lookup m).map (fun i => [i])
  | [m, x] => (operandOf x).bind (oneOperand m)
  | [m, x, y] =>
    if m = "WRITE_FIELD".toList then (operandOf x).bind (fun r => (operandOf y).map (writeField r)) else none
  | _ => none

/-- The command words of a text, one command a line (30_encoding R77). -/
def assemble (lines : List (List Char)) : Option (List CommandWord) :=
  match lines with
  | [] => some []
  | l :: ls => (assembleLine l).bind (fun is => (assemble ls).map (fun ws => is.map encode ++ ws))

end Sys2Proof.Machine
end

