-- ==== Sys2Proof/Tests/Slice0.lean ====
section
/-! SUPPORT. Tests whose expected results come from spec/ (mostly spec/95_test_vectors.md), each about one step, and for
every statement with hypotheses a witness that meets them, clause by clause. -/

namespace Sys2Proof.Tests

open Sys2Proof.Machine

/-! ## Helpers -/

/-- Reset, with one command word for the host to issue. -/
def fresh (w : CommandWord) : State := { State.reset with host := [.issue w] }

/-- INIT done, in phase `p`, the reference slave attached, with one command word for the host to issue. -/
def live (p : Phase) (w : CommandWord) : State :=
  { State.reset with init := true, phase := p, env := .reference, host := [.issue w] }

/-- INIT done, in phase `p`, with the wait `b` in flight on environment `e`. -/
def waiting (p : Phase) (b : Busy) (e : Env) : State :=
  { State.reset with init := true, phase := p, busy := b, env := e }

/-- A read completion in which every receive is ready. -/
def reading : State := { waiting .rdDone .rxDelay .reference with params := { rxDelaySufficient := true, decodeMode := .legacy } }

/-- The next state, if there is one. -/
def nextOf (o : Host.Outcome State Fault Refusal) : Option State :=
  match o with
  | .next t => some t
  | .fault _ => none
  | .refused _ => none

/-- A fact about the next state. -/
def leaves (o : Host.Outcome State Fault Refusal) (p : State → Bool) : Bool :=
  match nextOf o with
  | some t => p t
  | none => false

/-! ## Words: each check refuses an ill-formed one (30_encoding R74, R75) -/

/-- Opcode 0x7 is reserved. -/
theorem test_wellFormed_refuses_reserved_opcode :
    ({ op := 0x7, rsv := 0, imm8 := 0 } : CommandFields).opAssigned = false ∧
    ({ op := 0x7, rsv := 0, imm8 := 0 } : CommandFields).wellFormed = false ∧
    decode 0x7000 = .illegal .reservedOpcode := by decide

/-- `rsv = 1` in a BCD_ENCODE word (95_test_vectors V-K4). -/
theorem test_wellFormed_refuses_reserved_field :
    ({ op := 0x8, rsv := 1, imm8 := 0x55 } : CommandFields).rsvZero = false ∧
    ({ op := 0x8, rsv := 1, imm8 := 0x55 } : CommandFields).wellFormed = false ∧
    decode 0x8155 = .illegal .reservedField := by decide

/-- `imm8 = 1` in an INIT word (95_test_vectors V-B17). -/
theorem test_wellFormed_refuses_operand_in_format_z :
    ({ op := 0x1, rsv := 0, imm8 := 1 } : CommandFields).operandZero = false ∧
    ({ op := 0x1, rsv := 0, imm8 := 1 } : CommandFields).wellFormed = false ∧
    decode 0x1001 = .illegal .operandNotZero := by decide

/-- A format B word may have any operand. -/
theorem test_wellFormed_accepts_operand_in_format_b :
    ({ op := 0x5, rsv := 0, imm8 := 0xFF } : CommandFields).wellFormed = true := by decide

/-! ## Decoding, bit by bit from the opcode map (30_encoding R73) -/

theorem test_decode_init : decode 0b0001000000000000 = .legal .init := by decide
theorem test_decode_start : decode 0b0010000000000000 = .legal .start := by decide
theorem test_decode_restart : decode 0b0011000000000000 = .legal .restart := by decide
theorem test_decode_stop : decode 0b0100000000000000 = .legal .stop := by decide
theorem test_decode_writeByte : decode 0b0101000011010000 = .legal (.writeByte 0xD0) := by decide
theorem test_decode_readByte : decode 0b0110000000000000 = .legal .readByte := by decide
theorem test_decode_bcdEncode : decode 0b1000000001010101 = .legal (.bcdEncode 85) := by decide
theorem test_decode_bcdDecode : decode 0b1001000010000101 = .legal (.bcdDecode 0x85) := by decide

/-- The lowest and the highest reserved opcodes (30_encoding R75; 95_test_vectors V-B16). -/
theorem test_decode_reserved :
    decode 0x0000 = .illegal .reservedOpcode ∧ decode 0xA000 = .illegal .reservedOpcode ∧
    decode 0xF123 = .illegal .reservedOpcode := by decide

/-! ## The bus commands (95_test_vectors section 2.3) -/

/-- V-B1, first half. -/
theorem test_init_configures :
    leaves (step (fresh 0x1000)) (fun t => t.init && t.busy == .initDelay && t.phase == .idle && t.trace == []) = true := by
  decide

/-- V-B3: a second INIT. -/
theorem test_init_twice_faults :
    leaves (step (live .idle 0x1000)) (fun t => t.faultPort == 3 && t.busy == .none) = true := by decide

/-- V-B2: START before INIT. -/
theorem test_start_before_init_faults :
    leaves (step (fresh 0x2000)) (fun t => t.faultPort == 2 && t.trace == []) = true := by decide

/-- V-B6, first half. -/
theorem test_start_emits :
    leaves (step (live .idle 0x2000))
      (fun t => t.trace == [.start] && t.phase == .addr && t.busy == .startWait && t.hpc == 1) = true := by decide

/-- V-B10: RESTART in IDLE is legal. -/
theorem test_restart_in_idle :
    leaves (step (live .idle 0x3000)) (fun t => t.trace == [.restart] && t.phase == .addr) = true := by decide

/-- V-B6, V-B7: STOP straight after a start, or before the read. -/
theorem test_stop_out_of_place_faults :
    leaves (step (live .addr 0x4000)) (fun t => t.faultPort == 4 && t.trace == []) = true ∧
    leaves (step (live .rd 0x4000)) (fun t => t.faultPort == 4) = true := by decide

/-- 40_bus_transport R106: STOP in RD_DONE. -/
theorem test_stop_releases :
    leaves (step (live .rdDone 0x4000))
      (fun t => t.trace == [.stop] && t.phase == .idle && t.busy == .stopDelay) = true := by decide

/-- V-B11 and V-B7: bit 0 of the address byte gives the direction, and no address is checked. -/
theorem test_writeByte_address :
    leaves (step (live .addr 0x5068)) (fun t => t.phase == .wr && t.txd == 0x68 && t.busy == .txWait) = true ∧
    leaves (step (live .addr 0x50D1)) (fun t => t.phase == .rd && t.trace == [.write 0xD1]) = true := by decide

/-- V-B4: WRITE_BYTE on an idle bus leaves TXD unwritten. -/
theorem test_writeByte_idle_faults :
    leaves (step (live .idle 0x50D0)) (fun t => t.faultPort == 4 && t.txd == State.reset.txd && t.trace == []) = true := by
  decide

/-- V-B9: one read in a read phase; V-B8 and V-B9: none elsewhere. -/
theorem test_readByte_once :
    leaves (step (live .rd 0x6000)) (fun t => t.phase == .rdDone && t.busy == .rxDelay && t.trace == [.read]) = true ∧
    leaves (step (live .rdDone 0x6000)) (fun t => t.faultPort == 4) = true ∧
    leaves (step (live .wr 0x6000)) (fun t => t.faultPort == 4) = true := by decide

/-- V-B15 and V-B14: the stale byte is returned and the late one lands; where nothing was ever latched, a fault. -/
theorem test_read_not_ready :
    (completeRead 0x50 false true { live .rdDone 0 with busy := .rxDelay, rxv := true, rxd := 0x21 }).res = 0x21 ∧
    (completeRead 0x50 false true { live .rdDone 0 with busy := .rxDelay, rxv := true, rxd := 0x21 }).rxd = 0x50 ∧
    (completeRead 0x50 false true (live .rdDone 0)).faultPort = 5 := by decide

/-- V-B19: the host reads RES before anything wrote it. -/
theorem test_read_result_unwritten_faults :
    leaves (step { State.reset with host := [.readResult] }) (fun t => t.faultPort == 6) = true := by decide

/-! ## The codec commands (95_test_vectors sections 2.1 and 2.2) -/

/-- V-K1: no INIT needed. -/
theorem test_bcdEncode_from_reset :
    leaves (step (fresh 0x8055)) (fun t => t.res == 0x85 && t.resv && t.trace == [] && t.faultPort == 0) = true := by
  decide

/-- V-C5 to V-C9: the ends of the digit range and beyond. -/
theorem test_bcdEncode_values :
    bcdEncode 79 = 0x79 ∧ bcdEncode 100 = 0xA0 ∧ bcdEncode 159 = 0xF9 ∧ bcdEncode 160 = 0x00 ∧ bcdEncode 255 = 0x95 := by
  decide

/-- V-K2. -/
theorem test_bcdDecode_masks_bit_7 :
    leaves (step (fresh 0x9085)) (fun t => t.res == 5 && t.resv) = true := by decide

/-- V-D2, V-D5 to V-D9, both masks. -/
theorem test_bcdDecode_values :
    bcdDecode .legacy 0x0A = 10 ∧ bcdDecode .legacy 0x7F = 85 ∧ bcdDecode .legacy 0x80 = 0 ∧
    bcdDecode .corrected 0x80 = 80 ∧ bcdDecode .legacy 0xF0 = 70 ∧ bcdDecode .corrected 0xF0 = 150 ∧
    bcdDecode .corrected 0xFF = 165 := by decide

/-! ## Constants, assembler and wire -/

/-- 95_test_vectors W10. -/
theorem test_address_bytes : devW = 0xD0 ∧ devR = 0xD1 := by decide

/-- The examples of 30_encoding R77, with their words. -/
theorem test_assemble_commands :
    assemble ["START".toList, "WRITE_BYTE 0xD0".toList, "WRITE_BYTE REG_HOURS ; the hours".toList, "BCD_ENCODE 59".toList] =
      some [0x2000, 0x50D0, 0x5002, 0x803B] := by decide

/-- 30_encoding R78: a pseudo-command's words. -/
theorem test_assemble_write_field :
    assemble ["WRITE_FIELD REG_YEAR, 0x14".toList] = some [0x2000, 0x50D0, 0x5006, 0x5014, 0x4000] := by decide

/-- 40_bus_transport R115: a READ_FIELD on the wire. -/
theorem test_wire_of_read_field :
    wireOfTrace .nack (readFieldEvents 0x02) =
      [.startCondition, .masterByte 0xD0, .slaveAck, .masterByte 0x02, .slaveAck, .startCondition, .masterByte 0xD1,
       .slaveAck, .slaveByte, .masterAck .nack, .stopCondition] := by decide

/-- The reference slave's byte (42_transactions R166): REG[0x02] in the addressed read of 0x02. -/
theorem test_reference_slave_drives_register :
    ({ reg := [(2, 0x21)], ptr := some 2, clock := [] } : Chip).readByte? ((readFieldEvents 0x02).take 6) = some 0x21 := by
  decide

/-- The reference slave's store (42_transactions R166; 95_test_vectors V-T2: REG[0x00] = 0x00 after it). -/
theorem test_reference_slave_stores :
    (({ reg := [(2, 0x21)], ptr := none, clock := [] } : Chip).afterStop ((writeFieldEvents 0x01 0x50).take 4)).reg =
      [(1, 0x50), (2, 0x21)] ∧
    regRead (({ reg := [(0, 0x59)], ptr := none, clock := [] } : Chip).afterStop ((writeFieldEvents 0 0).take 4)).reg 0 =
      0x00 := by decide

/-- 70_reset_and_hazards R251 with 10_state R34: a pending result read is no command, so the run has ended. -/
theorem test_run_ends_with_a_read_pending :
    ({ State.reset with host := [.readResult] } : State).runEnded = true ∧
    ({ State.reset with host := [.readResult, .issue 0x1000] } : State).runEnded = false := by decide

/-! ## Witnesses: encoding -/

theorem witness_LegalWordIsItsCommandsWord :
    decode 0x50FF = .legal (.writeByte 0xFF) ∧ decode 0x6000 = .legal .readByte := by decide

/-- One word for each branch of the decode function. -/
theorem witness_EveryWordMatchesOneRowOrIsIllegal :
    (0x50D0 : CommandWord) = (0x5 : BitVec 4) ++ (0 : BitVec 4) ++ (0xD0 : Byte) ∧
    (0xF : BitVec 4).toNat ∉ [0x1, 0x2, 0x3, 0x4, 0x5, 0x6, 0x8, 0x9] ∧ (0xF : BitVec 4) ≠ 0 ∧
    (0x6 : BitVec 4).toNat ∈ [0x1, 0x2, 0x3, 0x4, 0x6] ∧ (1 : Byte) ≠ 0 := by decide

theorem witness_ReservedOpcodesFault :
    (fresh 0x0000).fault = none ∧ (fresh 0x0000).busy = .none ∧
    (fresh 0x0000).host = [.issue ((0x0 : BitVec 4) ++ (0 : BitVec 4) ++ (0 : Byte))] ∧
    (0x0 : BitVec 4).toNat ∈ [0x0, 0x7, 0xA, 0xB, 0xC, 0xD, 0xE, 0xF] ∧
    (live .wr 0xF123).fault = none ∧ (live .wr 0xF123).busy = .none ∧
    (live .wr 0xF123).host = [.issue ((0xF : BitVec 4) ++ (1 : BitVec 4) ++ (0x23 : Byte))] ∧
    (0xF : BitVec 4).toNat ∈ [0x0, 0x7, 0xA, 0xB, 0xC, 0xD, 0xE, 0xF] := by decide

theorem witness_MustBeZeroFieldsFault_reserved_field :
    (fresh 0x8155).fault = none ∧ (fresh 0x8155).busy = .none ∧
    (fresh 0x8155).host = [.issue ((0x8 : BitVec 4) ++ (1 : BitVec 4) ++ (0x55 : Byte))] ∧
    (0x8 : BitVec 4).toNat ∈ [0x1, 0x2, 0x3, 0x4, 0x5, 0x6, 0x8, 0x9] ∧ (1 : BitVec 4) ≠ 0 := by decide

theorem witness_MustBeZeroFieldsFault_operand :
    (fresh 0x6080).fault = none ∧ (fresh 0x6080).busy = .none ∧
    (fresh 0x6080).host = [.issue ((0x6 : BitVec 4) ++ (0 : BitVec 4) ++ (0x80 : Byte))] ∧
    (0x6 : BitVec 4).toNat ∈ [0x1, 0x2, 0x3, 0x4, 0x6] ∧ (0x80 : Byte) ≠ 0 := by decide

/-! ## Witnesses: the host's step -/

theorem witness_StepRunsDecodedCommand :
    (live .addr 0x50D1).fault = none ∧ (live .addr 0x50D1).busy = .none ∧ (live .addr 0x50D1).host = [.issue 0x50D1] ∧
    decode 0x50D1 = .legal (.writeByte 0xD1) := by decide

/-- A faulted state. -/
theorem witness_IssueStepIsGuarded_fault : ({ fresh 0x1000 with fault := some .framing } : State).fault = some .framing := by
  decide

/-- An enabled issue step of a legal word, which moves HPC. -/
theorem witness_IssueStepIsGuarded_legal :
    (fresh 0x8055).fault = none ∧ (fresh 0x8055).ready = true ∧ (fresh 0x8055).host = [.issue 0x8055] ∧
    decode 0x8055 = .legal (.bcdEncode 0x55) ∧
    ∃ t, step (fresh 0x8055) = .next t ∧ t.hpc ≠ (fresh 0x8055).hpc :=
  ⟨rfl, rfl, rfl, rfl, _, rfl, by decide⟩

/-- An enabled issue step of an illegal word. -/
theorem witness_IssueStepIsGuarded_illegal :
    (fresh 0x1001).fault = none ∧ (fresh 0x1001).ready = true ∧ (fresh 0x1001).host = [.issue 0x1001] ∧
    decode 0x1001 = .illegal .operandNotZero := by decide

theorem witness_ResultReadReturnsRes_written :
    ∃ s : State, s.host = [.readResult] ∧ s.fault = none ∧ s.busy = .none ∧ s.resv = true :=
  ⟨{ State.reset with host := [.readResult], res := 0x85, resv := true }, rfl, rfl, rfl, rfl⟩

/-- Also a step that takes the read off the host's list. -/
theorem witness_ResultReadReturnsRes_unwritten :
    ∃ s t : State, s.host = [.readResult] ∧ s.fault = none ∧ s.busy = .none ∧ s.resv = false ∧ step s = .next t ∧
      t.host ≠ s.host :=
  ⟨{ State.reset with host := [.readResult] }, _, rfl, rfl, rfl, rfl, rfl, by decide⟩

theorem witness_EndedRunStaysAsItIs :
    State.reset.runEnded = true ∧ State.reset.host = [] ∧ runFor 1 State.reset = .next State.reset := ⟨rfl, rfl, rfl⟩

/-- An ended run with a result read pending that returns, and one with a read that faults. -/
theorem witness_EndedRunStaysAsItIs_read :
    (({ State.reset with host := [.readResult], resv := true } : State).runEnded = true ∧
      ({ State.reset with host := [.readResult], resv := true } : State).resv = true) ∧
    ∃ t, ({ State.reset with host := [.readResult] } : State).runEnded = true ∧
      runFor 1 { State.reset with host := [.readResult] } = .next t ∧ t.fault = some .resUnwritten :=
  ⟨⟨rfl, rfl⟩, _, rfl, rfl, rfl⟩

theorem witness_HostHasNoStepWhileBusy :
    ({ waiting .addr .startWait .silent with host := [.issue 0x50D0] } : State).busy ≠ .none := by decide

/-! ## Witnesses: the bus commands -/

theorem witness_InitConfiguresOnce_first : (fresh 0x1000).init = false := by decide

theorem witness_InitConfiguresOnce_again : (live .idle 0x1000).fault = none ∧ (live .idle 0x1000).init = true := by decide

theorem witness_InitConfiguresOnce_invariant : State.reset.Inv ∧ State.reset.init = false :=
  ⟨⟨rfl, rfl, fun _ => ⟨rfl, rfl, rfl⟩, nofun, trivial, trivial⟩, rfl⟩

theorem witness_InitConfiguresOnce_sets :
    ∃ t, exec .init State.reset = .next t ∧ t.init ≠ State.reset.init := ⟨_, rfl, by decide⟩

/-- START and RESTART: the three legal phases, then the three faults. -/
theorem witness_StartOpensAddressPhase :
    ((live .idle 0x2000).init = true ∧ (live .idle 0x2000).phase = .idle) ∧ (live .wr 0x2000).phase = .wr ∧
    (live .rdDone 0x2000).phase = .rdDone ∧ ((fresh 0x2000).fault = none ∧ (fresh 0x2000).init = false) ∧
    ((live .addr 0x2000).fault = none ∧ (live .addr 0x2000).init = true ∧ (live .addr 0x2000).phase = .addr) ∧
    (live .rd 0x2000).phase = .rd := by decide

theorem witness_RestartOpensAddressPhase :
    ((live .idle 0x3000).init = true ∧ (live .idle 0x3000).phase = .idle) ∧ (live .wr 0x3000).phase = .wr ∧
    (live .rdDone 0x3000).phase = .rdDone ∧ ((fresh 0x3000).fault = none ∧ (fresh 0x3000).init = false) ∧
    ((live .addr 0x3000).fault = none ∧ (live .addr 0x3000).init = true ∧ (live .addr 0x3000).phase = .addr) ∧
    (live .rd 0x3000).phase = .rd := by decide

theorem witness_StopReleasesBus :
    ((live .wr 0x4000).init = true ∧ (live .wr 0x4000).phase = .wr ∧ (live .wr 0x4000).fault = none) ∧
    (live .rdDone 0x4000).phase = .rdDone ∧ ((fresh 0x4000).fault = none ∧ (fresh 0x4000).init = false) ∧
    ((live .idle 0x4000).fault = none ∧ (live .idle 0x4000).init = true ∧ (live .idle 0x4000).phase = .idle) ∧
    (live .addr 0x4000).phase = .addr ∧ (live .rd 0x4000).phase = .rd := by decide

theorem witness_WriteByteTransmits :
    ((live .addr 0x50D0).init = true ∧ (live .addr 0x50D0).phase = .addr) ∧
    ((live .wr 0x50D0).init = true ∧ (live .wr 0x50D0).phase = .wr) ∧
    ((fresh 0x50D0).fault = none ∧ (fresh 0x50D0).init = false) ∧
    ((live .idle 0x50D0).fault = none ∧ (live .idle 0x50D0).init = true ∧ (live .idle 0x50D0).phase = .idle) ∧
    (live .rd 0x50D0).phase = .rd ∧ (live .rdDone 0x50D0).phase = .rdDone := by decide

theorem witness_ReadByteTriggersReceive :
    ((live .rd 0x6000).init = true ∧ (live .rd 0x6000).phase = .rd) ∧
    (reading.fault = none ∧ reading.busy = .rxDelay ∧ reading.params.rxDelaySufficient = true) ∧
    ((fresh 0x6000).fault = none ∧ (fresh 0x6000).init = false) ∧
    ((live .rdDone 0x6000).fault = none ∧ (live .rdDone 0x6000).init = true ∧ (live .rdDone 0x6000).phase ≠ .rd) := by
  decide

theorem witness_FramingTableHolds :
    (live .idle 0x2000).init = true ∧ (live .idle 0x2000).fault = none ∧ (live .idle 0x2000).phase = .idle ∧
    (live .addr 0x2000).phase = .addr ∧ (live .wr 0x2000).phase = .wr ∧ (live .rd 0x2000).phase = .rd ∧
    (live .rdDone 0x2000).phase = .rdDone ∧ (0xD0 : Byte).getLsbD 0 = false ∧ (0xD1 : Byte).getLsbD 0 = true := by decide

/-! ## Witnesses: completion steps -/

theorem witness_InitCompletionFreesHost :
    (waiting .idle .initDelay .unconstrained).fault = none ∧
    (waiting .idle .initDelay .unconstrained).busy = .initDelay := by decide

/-- Both branches: the bus signals, or it does not. -/
theorem witness_StartCompletionAwaitsBus :
    ((waiting .addr .startWait .reference).fault = none ∧ (waiting .addr .startWait .reference).busy = .startWait ∧
      (waiting .addr .startWait .reference).busCompletes = true) ∧
    ((waiting .addr .startWait .silent).fault = none ∧ (waiting .addr .startWait .silent).busy = .startWait ∧
      (waiting .addr .startWait .silent).busCompletes = false) := by decide

/-- Without the reference slave, and with it. -/
theorem witness_StopCompletionFreesHost :
    ((waiting .idle .stopDelay .unconstrained).fault = none ∧ (waiting .idle .stopDelay .unconstrained).busy = .stopDelay ∧
      (waiting .idle .stopDelay .unconstrained).env ≠ .reference) ∧
    (waiting .idle .stopDelay .reference).env = .reference := by decide

theorem witness_WriteCompletionIgnoresAck :
    ((waiting .wr .txWait .reference).fault = none ∧ (waiting .wr .txWait .reference).busy = .txWait ∧
      (waiting .wr .txWait .reference).busCompletes = true) ∧
    ((waiting .wr .txWait .silent).busy = .txWait ∧ (waiting .wr .txWait .silent).busCompletes = false ∧
      (waiting .wr .txWait .silent).env ≠ .reference) := by decide

theorem witness_ReadCompletionReturnsLatch :
    (reading.fault = none ∧ reading.busy = .rxDelay ∧ reading.params.rxDelaySufficient = true) ∧
    ((waiting .rdDone .rxDelay .silent).fault = none ∧ (waiting .rdDone .rxDelay .silent).busy = .rxDelay ∧
      (waiting .rdDone .rxDelay .silent).rxv = false ∧ (waiting .rdDone .rxDelay .silent).env ≠ .reference) := by decide

theorem witness_WaitHasNoTimeout :
    ((waiting .addr .startWait .silent).fault = none ∧ (waiting .addr .startWait .silent).busy = .startWait) ∧
    ((waiting .wr .txWait .silent).fault = none ∧ (waiting .wr .txWait .silent).busy = .txWait) ∧
    (waiting .idle .initDelay .silent).busy = .initDelay ∧ (waiting .idle .stopDelay .silent).busy = .stopDelay ∧
    (waiting .rdDone .rxDelay .silent).busy = .rxDelay := by decide

/-- An environment that never signals. -/
theorem witness_WaitHasNoTimeout_hang :
    ∀ k, ({ waiting .wr .txWait .silent with draws := (waiting .wr .txWait .silent).draws + k } : State).busCompletes = false :=
  fun _ => rfl

/-- A step that lifts the wait. -/
theorem witness_WaitHasNoTimeout_lifted :
    ∃ t, step (waiting .addr .startWait .reference) = .next t ∧ t.busy ≠ (waiting .addr .startWait .reference).busy :=
  ⟨_, rfl, by decide⟩

theorem witness_ResponsiveBusEndsWaits :
    ((waiting .addr .startWait .reference).fault = none ∧ (waiting .addr .startWait .reference).busy = .startWait ∧
      (waiting .addr .startWait .reference).BusResponsive) ∧
    ((waiting .wr .txWait .reference).busy = .txWait ∧ (waiting .wr .txWait .reference).BusResponsive) :=
  ⟨⟨rfl, rfl, trivial⟩, rfl, trivial⟩

/-! ## Witnesses: the codec and the faults -/

theorem witness_EncodePacksDigits : (99 : Byte).toNat < 100 := by decide

theorem witness_DecodeModeIsFixedForARun : ∃ t, State.Reaches (fresh 0x1000) t :=
  ⟨_, 1, rfl⟩

theorem witness_CodecRoundTripLaw :
    (79 : Byte).toNat ≤ 79 ∧ 80 ≤ (80 : Byte).toNat ∧ (80 : Byte).toNat ≤ 99 ∧ 80 ≤ (99 : Byte).toNat ∧
    (99 : Byte).toNat ≤ 99 := by decide

theorem witness_CodecLawAboveNinetyNine : 100 ≤ (100 : Byte).toNat ∧ 100 ≤ (255 : Byte).toNat := by decide

theorem witness_FaultCodesShowOnPort : ({ State.reset with fault := some .framing } : State).fault = some .framing := by
  decide

theorem witness_FaultFreezesTheMachine :
    State.reset.fault = none ∧ ({ State.reset with fault := some .reinit } : State).fault = some .reinit := by decide

theorem witness_FaultChecksAreOrdered :
    (State.reset.fault = none ∧ decode 0x1001 = .illegal .operandNotZero ∧ State.reset.init = false ∧
      Instr.stop ∈ [Instr.start, Instr.restart, Instr.stop, Instr.writeByte 0, Instr.readByte]) ∧
    ((live .idle 0x1000).fault = none ∧ (live .idle 0x1000).init = true) := by decide

theorem witness_FaultChecksAreOrdered_framing :
    ∃ t, exec .stop (live .idle 0x4000) = .next t ∧ t.fault = some .framing := ⟨_, rfl, rfl⟩

/-- A host read that raises RES_UNWRITTEN, and a step outside the read completion. -/
theorem witness_FaultChecksAreOrdered_late :
    ∃ t, State.reset.busy ≠ .rxDelay ∧ step { State.reset with host := [.readResult] } = .next t ∧
      t.fault = some .resUnwritten :=
  ⟨_, by decide, rfl, rfl⟩

/-- Faults of an issue step and of the host's result read. -/
theorem witness_FaultingStepWritesFaultOnly :
    (∃ t, step (fresh 0x2000) = .next t ∧ t.fault = some .notInitialized) ∧
    (∃ t, step { State.reset with host := [.readResult] } = .next t ∧ t.fault = some .resUnwritten) :=
  ⟨⟨_, rfl, rfl⟩, _, rfl, rfl⟩

/-! ## Witnesses: invariants and whole-machine rules -/

/-- A state in which a bus command has run meets the invariant too, and has a next state. -/
theorem witness_StepKeepsInvariant :
    ∃ s t : State, s.Inv ∧ step s = .next t ∧ t.trace = [.start] :=
  ⟨live .idle 0x2000, _, ⟨rfl, rfl, nofun, nofun, trivial, trivial⟩, rfl, rfl⟩

theorem witness_StepKeepsRegisterMemoryCanonical :
    ∃ s t : State, regsWf s.chip.reg = true ∧ s.chip.reg ≠ [] ∧ step s = .next t :=
  ⟨{ waiting .idle .stopDelay .reference with chip := { reg := [(0, 1), (255, 2)], ptr := none, clock := [] } }, _,
    by decide, by decide, rfl⟩

theorem witness_OnlyInitSetsInit :
    (∃ t, step (fresh 0x1000) = .next t ∧ (fresh 0x1000).init = false ∧ t.init = true) ∧
    (∃ t, step (live .idle 0x2000) = .next t ∧ (live .idle 0x2000).init = true) :=
  ⟨⟨_, rfl, rfl, rfl⟩, _, rfl, rfl⟩

theorem witness_TraceOnlyGrows : ∃ t, step (live .idle 0x2000) = .next t := ⟨_, rfl⟩

/-- A codec command, and a read completion. -/
theorem witness_OnlyResultsWriteRes :
    (∃ t, step (fresh 0x8055) = .next t ∧ t.res ≠ (fresh 0x8055).res) ∧
    (∃ t, step reading = .next t ∧ t.resv ≠ reading.resv) ∧
    (∃ t, step { fresh 0x8055 with resv := true } = .next t) :=
  ⟨⟨_, rfl, by decide⟩, ⟨_, rfl, by decide⟩, _, rfl⟩

theorem witness_OnlyWriteByteLoadsTxd :
    ∃ t, step (live .addr 0x50D0) = .next t ∧ t.txd ≠ (live .addr 0x50D0).txd := ⟨_, rfl, by decide⟩

theorem witness_OnlyReceiveWritesLatch :
    (∃ t, step reading = .next t ∧ t.rxv ≠ reading.rxv) ∧ (∃ t, step { reading with rxv := true } = .next t) :=
  ⟨⟨_, rfl, by decide⟩, _, rfl⟩

/-- The divisor is open, so some divisor before INIT differs from it. -/
theorem witness_OnlyInitWritesDivisor :
    ∃ s t : State, step s = .next t ∧ t.cfgDiv ≠ s.cfgDiv :=
  ⟨{ fresh 0x1000 with cfgDiv := Config.busClockDivisor + 1 }, _, rfl, Nat.ne_of_lt (Nat.lt_succ_self _)⟩

theorem witness_HpcCountsAcceptedCommands :
    (∃ t, step (fresh 0x7000) = .next t ∧ (fresh 0x7000).host = [.issue 0x7000] ∧ (fresh 0x7000).busy = .none) ∧
    (∃ t, step (waiting .idle .initDelay .silent) = .next t ∧ (waiting .idle .initDelay .silent).busy ≠ .none) :=
  ⟨⟨_, rfl, rfl, rfl⟩, _, rfl, by decide⟩

/-! ## Witnesses: frames -/

theorem witness_CommandsLeaveOtherAgentsAlone : ∃ t, exec (.writeByte 0xD0) (live .addr 0) = .next t := ⟨_, rfl⟩

/-- A command that has its effect, and one that faults. -/
theorem witness_BusCommandFrame :
    (∃ t, Instr.stop ∈ [Instr.start, Instr.restart, Instr.stop, Instr.writeByte 0xD0, Instr.readByte] ∧
      exec .stop (live .wr 0) = .next t ∧ Instr.stop ≠ .writeByte 0xD0) ∧
    (∃ t, exec (.writeByte 0xD0) (live .idle 0) = .next t ∧ t.fault ≠ (live .idle 0).fault) :=
  ⟨⟨_, by decide, rfl, by decide⟩, _, rfl, by decide⟩

theorem witness_InitFrame :
    (∃ t, exec .init State.reset = .next t) ∧
    (∃ t, exec .init (live .idle 0) = .next t ∧ t.fault ≠ (live .idle 0).fault) :=
  ⟨⟨_, rfl⟩, _, rfl, by decide⟩

theorem witness_CodecFrame :
    ∃ t, Instr.bcdDecode 0x85 ∈ [Instr.bcdEncode 0x85, Instr.bcdDecode 0x85] ∧
      exec (.bcdDecode 0x85) State.reset = .next t := ⟨_, by decide, rfl⟩

/-! ## Witnesses: field transactions -/

/-- A stop that stores, and a step that does not. -/
theorem witness_RegistersChangeOnlyByAddressedWrite :
    (∃ s t : State, s.chip.clock = [] ∧ step s = .next t ∧ regRead t.chip.reg 6 ≠ regRead s.chip.reg 6) ∧
    (∃ t, (live .idle 0x2000).chip.clock = [] ∧ step (live .idle 0x2000) = .next t) :=
  ⟨⟨{ waiting .idle .stopDelay .reference with trace := writeFieldEvents 6 0x14 }, _, rfl, rfl, by decide⟩, _, rfl, rfl⟩

/-- INIT done, on the reference slave, with a READ_FIELD to run. -/
def readSetup (r : Byte) : State :=
  { live .idle 0 with
    host := hostProgram (readField r), params := { rxDelaySufficient := true, decodeMode := .legacy },
    chip := { reg := [(2, 0x21)], ptr := none, clock := [] } }

/-- INIT done, on the reference slave, with a WRITE_FIELD to run. -/
def writeSetup (r v : Byte) : State := { live .idle 0 with host := hostProgram (writeField r v) }

theorem witness_ReadFieldRunsToItsEnd :
    (readSetup 2).init = true ∧ (readSetup 2).phase = .idle ∧ (readSetup 2).busy = .none ∧ (readSetup 2).fault = none ∧
    (readSetup 2).host = hostProgram (readField 2) ++ [] ∧ (readSetup 2).BusResponsive :=
  ⟨rfl, rfl, rfl, rfl, rfl, trivial⟩

theorem witness_WriteFieldRunsToItsEnd :
    (writeSetup 0xFF 0).init = true ∧ (writeSetup 0xFF 0).phase = .idle ∧ (writeSetup 0xFF 0).busy = .none ∧
    (writeSetup 0xFF 0).fault = none ∧ (writeSetup 0xFF 0).host = hostProgram (writeField 0xFF 0) ++ [] ∧
    (writeSetup 0xFF 0).BusResponsive :=
  ⟨rfl, rfl, rfl, rfl, rfl, trivial⟩

theorem witness_ReferenceSlaveStoresField :
    (writeSetup 6 0x14).Inv ∧ (writeSetup 6 0x14).init = true ∧ (writeSetup 6 0x14).phase = .idle ∧
    (writeSetup 6 0x14).busy = .none ∧ (writeSetup 6 0x14).fault = none ∧ (writeSetup 6 0x14).env = .reference ∧
    (writeSetup 6 0x14).chip.clock = [] ∧ (writeSetup 6 0x14).host = hostProgram (writeField 6 0x14) ++ [] ∧
    (0 : Byte) ≠ 6 :=
  ⟨⟨rfl, rfl, nofun, nofun, trivial, trivial⟩, rfl, rfl, rfl, rfl, rfl, rfl, rfl, by decide⟩

theorem witness_ReferenceSlaveReturnsField :
    (readSetup 2).Inv ∧ (readSetup 2).init = true ∧ (readSetup 2).phase = .idle ∧ (readSetup 2).busy = .none ∧
    (readSetup 2).fault = none ∧ (readSetup 2).env = .reference ∧ (readSetup 2).params.rxDelaySufficient = true ∧
    (readSetup 2).chip.clock = [] ∧ regRead (readSetup 2).chip.reg 2 = 0x21 ∧
    (readSetup 2).host = hostProgram (readField 2) ++ [] :=
  ⟨⟨rfl, rfl, nofun, nofun, trivial, trivial⟩, rfl, rfl, rfl, rfl, rfl, rfl, rfl, rfl, rfl⟩

end Sys2Proof.Tests
end

section
/-! SUPPORT. A legal word is the word of its command (spec/30_encoding.md R73, R76). -/

namespace Sys2Proof

/-- The decoder answers a command for that command's own word only. -/
theorem encode_of_decode {w : CommandWord} {i : Instr} (h : decode w = .legal i) : encode i = w := by
  unfold decode at h
  split at h
  · cases h
  · rename_i j hj
    split_ifs at h with hr hz
    cases h
    have hfields : i.fields = fieldsOf w :=
      fields_of_commandOf hj (not_not.1 hr) (fun hf => by_contra fun hi => hz ⟨hf, hi⟩)
    rw [encode, hfields, word_fieldsOf]

end Sys2Proof
end

section
/-! SUPPORT. Who writes which register: what a command changes, and what the other steps leave as it was
(spec/10_state.md R21 to R30). -/

namespace Sys2Proof.Machine

/-! ## What a command changes -/

/-- The command that emits a Write event is the WRITE_BYTE of its byte. -/
theorem eq_writeByte_of_busEventOf {i : Instr} {b : Byte} {w : Busy} (h : busEventOf i = some (.write b, w)) :
    i = .writeByte b := by
  cases i with
  | writeByte c => cases h; rfl
  | init | start | restart | stop | readByte | bcdEncode | bcdDecode => cases h

/-- The commands that write a result are the two codec commands. -/
theorem resultOf_eq_some {m : DecodeMode} {i : Instr} {b : Byte} (h : resultOf m i = some b) :
    ∃ v, i = .bcdEncode v ∧ b = bcdEncode v ∨ i = .bcdDecode v ∧ b = bcdDecode m v := by
  cases i with
  | bcdEncode v => exact ⟨v, .inl ⟨rfl, (Option.some.inj h).symm⟩⟩
  | bcdDecode v => exact ⟨v, .inr ⟨rfl, (Option.some.inj h).symm⟩⟩
  | init | start | restart | stop | writeByte | readByte => cases h

/-! The state a bus command leaves, field by field. -/

@[simp] theorem State.issued_init (s : State) (e : BusEvent) (p : Phase) (w : Busy) :
    (s.issued e p w).init = s.init := by simp [State.issued]
@[simp] theorem State.issued_busy (s : State) (e : BusEvent) (p : Phase) (w : Busy) :
    (s.issued e p w).busy = w := by simp [State.issued]
@[simp] theorem State.issued_phase (s : State) (e : BusEvent) (p : Phase) (w : Busy) :
    (s.issued e p w).phase = p := by simp [State.issued]
@[simp] theorem State.issued_txd (s : State) (e : BusEvent) (p : Phase) (w : Busy) :
    (s.issued e p w).txd = (s.loadTxd e).txd := by simp [State.issued]
@[simp] theorem State.issued_rxd (s : State) (e : BusEvent) (p : Phase) (w : Busy) :
    (s.issued e p w).rxd = s.rxd := by simp [State.issued]
@[simp] theorem State.issued_rxv (s : State) (e : BusEvent) (p : Phase) (w : Busy) :
    (s.issued e p w).rxv = s.rxv := by simp [State.issued]
@[simp] theorem State.issued_res (s : State) (e : BusEvent) (p : Phase) (w : Busy) :
    (s.issued e p w).res = s.res := by simp [State.issued]
@[simp] theorem State.issued_resv (s : State) (e : BusEvent) (p : Phase) (w : Busy) :
    (s.issued e p w).resv = s.resv := by simp [State.issued]
@[simp] theorem State.issued_cfgDiv (s : State) (e : BusEvent) (p : Phase) (w : Busy) :
    (s.issued e p w).cfgDiv = s.cfgDiv := by simp [State.issued]
@[simp] theorem State.issued_trace (s : State) (e : BusEvent) (p : Phase) (w : Busy) :
    (s.issued e p w).trace = s.trace ++ [e] := by simp [State.issued]
@[simp] theorem State.issued_fault (s : State) (e : BusEvent) (p : Phase) (w : Busy) :
    (s.issued e p w).fault = s.fault := by simp [State.issued]
@[simp] theorem State.issued_hpc (s : State) (e : BusEvent) (p : Phase) (w : Busy) :
    (s.issued e p w).hpc = s.hpc := by simp [State.issued]
@[simp] theorem State.issued_host (s : State) (e : BusEvent) (p : Phase) (w : Busy) :
    (s.issued e p w).host = s.host := by simp [State.issued]
@[simp] theorem State.issued_env (s : State) (e : BusEvent) (p : Phase) (w : Busy) :
    (s.issued e p w).env = s.env := by simp [State.issued]
@[simp] theorem State.issued_chip (s : State) (e : BusEvent) (p : Phase) (w : Busy) :
    (s.issued e p w).chip = s.chip := by simp [State.issued]
@[simp] theorem State.issued_params (s : State) (e : BusEvent) (p : Phase) (w : Busy) :
    (s.issued e p w).params = s.params := by simp [State.issued]
@[simp] theorem State.issued_draws (s : State) (e : BusEvent) (p : Phase) (w : Busy) :
    (s.issued e p w).draws = s.draws := by simp [State.issued]

variable {i : Instr} {s t : State}

/-- No command moves the host. -/
theorem CommandLeaves.host_eq (h : CommandLeaves i s t) : t.hpc = s.hpc ∧ t.host = s.host := by
  cases h <;> simp

/-- No command touches the receive latch. -/
theorem CommandLeaves.latch_eq (h : CommandLeaves i s t) : t.rxd = s.rxd ∧ t.rxv = s.rxv := by
  cases h <;> simp

/-- INIT and CFG_DIV: the first INIT writes both, nothing else writes either. -/
theorem CommandLeaves.config (h : CommandLeaves i s t) :
    i = .init ∧ s.init = false ∧ t.init = true ∧ t.cfgDiv = Config.busClockDivisor ∨
    t.init = s.init ∧ t.cfgDiv = s.cfgDiv := by
  cases h with
  | configured hi h0 => exact .inl ⟨hi, h0, rfl, rfl⟩
  | reinit | uninitialized | misframed | issued | result => exact .inr (by simp)

/-- TRACE and TXD: a bus command appends its event and loads its byte, if it has one; nothing else writes either. -/
theorem CommandLeaves.transmit (h : CommandLeaves i s t) :
    (∃ e w, busEventOf i = some (e, w) ∧ t.trace = s.trace ++ [e] ∧ t.txd = (s.loadTxd e).txd) ∨
    t.trace = s.trace ∧ t.txd = s.txd := by
  cases h with
  | issued e w p he => exact .inl ⟨e, w, he, by simp⟩
  | configured | reinit | uninitialized | misframed | result => exact .inr (by simp)

/-- RES and RESV: a codec command writes its result; nothing else writes either. -/
theorem CommandLeaves.results (h : CommandLeaves i s t) :
    (∃ b, resultOf s.params.decodeMode i = some b ∧ t.res = b ∧ t.resv = true) ∨
    t.res = s.res ∧ t.resv = s.resv := by
  cases h with
  | result b hb => exact .inl ⟨b, hb, rfl, rfl⟩
  | configured | reinit | uninitialized | misframed | issued => exact .inr (by simp)

/-! ## What a step changes -/

/-- The registers that only an accepted command writes hold what they held. -/
structure State.SameControl (s t : State) : Prop where
  init : t.init = s.init
  txd : t.txd = s.txd
  cfgDiv : t.cfgDiv = s.cfgDiv
  trace : t.trace = s.trace

/-- The receive latch and the result register hold what they held. -/
structure State.SameResults (s t : State) : Prop where
  rxd : t.rxd = s.rxd
  rxv : t.rxv = s.rxv
  res : t.res = s.res
  resv : t.resv = s.resv

/-- What a read completion does to the receive latch and the result register when it does not fault: a result is there,
and RXD is the byte the slave drove, or the stale one (40_bus_transport R111). -/
structure State.Received (s t : State) : Prop where
  busy : s.busy = .rxDelay
  resv : t.resv = true
  rxv : t.rxv = true
  rxd : t.rxd = s.rxByteDraw ∨ t.rxd = s.rxd ∧ s.rxv = true

/-- The host issues the command `i`, which leaves `t`. -/
def State.Issues (s : State) (i : Instr) (t : State) : Prop :=
  s.busy = .none ∧ (∃ rest, s.host = .issue (encode i) :: rest) ∧ CommandLeaves i s.popHost.advance t

/-- Who writes the registers of the block: a step runs an issued command, or it leaves the control registers; then it is a
read completion, or it leaves the latch and the result too. -/
theorem StepLeaves.writes (h : StepLeaves s t) :
    (∃ i, s.Issues i t) ∨ s.SameControl t ∧ (s.Received t ∨ s.SameResults t) := by
  cases h with
  | command w rest i t hb hh hd ht => exact .inl ⟨i, hb, ⟨rest, encode_of_decode hd ▸ hh⟩, ht⟩
  | readFresh hb =>
    exact .inr ⟨by constructor <;> simp [State.chipAfterRead], .inl ⟨hb, rfl, rfl, .inl rfl⟩⟩
  | readStale hb hr hv =>
    refine .inr ⟨by constructor <;> simp [State.chipAfterRead], .inl ⟨hb, by simp, ?_, ?_⟩⟩
    · simpa [State.chipAfterRead] using hv
    · cases s.rxLateDraw <;> simp [State.chipAfterRead, hv]
  | readUnlatched =>
    exact .inr ⟨by constructor <;> simp [State.chipAfterRead], .inr (by constructor <;> simp [State.chipAfterRead])⟩
  | writeDone =>
    exact .inr ⟨by constructor <;> simp [State.chipAfterByte], .inr (by constructor <;> simp [State.chipAfterByte])⟩
  | stopDone =>
    exact .inr ⟨by constructor <;> simp [State.chipAfterStop], .inr (by constructor <;> simp [State.chipAfterStop])⟩
  | idle | resultRead | resultUnwritten | illegal | initDone | waits | startDone =>
    exact .inr ⟨⟨rfl, rfl, rfl, rfl⟩, .inr ⟨rfl, rfl, rfl, rfl⟩⟩

/-- Who writes the registers of the block in a step of the machine. -/
theorem step_writes (h : step s = .next t) :
    (∃ i, s.Issues i t) ∨ s.SameControl t ∧ (s.Received t ∨ s.SameResults t) :=
  (step_leaves h).2.writes

/-- HPC counts the words the host issues, and each leaves the host's list. -/
theorem StepLeaves.host_moves (h : StepLeaves s t) :
    ((∃ w rest, s.host = .issue w :: rest ∧ s.busy = .none) ∧ t.hpc = s.hpc + 1 ∧ t.host = s.host.tail) ∨
    ((¬ ∃ w rest, s.host = .issue w :: rest ∧ s.busy = .none) ∧ t.hpc = s.hpc ∧
      (s.busy ≠ .none → t.host = s.host)) := by
  cases h with
  | illegal w rest why hb hh => exact .inl ⟨⟨w, rest, hh, hb⟩, rfl, rfl⟩
  | command w rest i t hb hh hd ht =>
    obtain ⟨hhpc, hhost⟩ := ht.host_eq
    exact .inl ⟨⟨w, rest, hh, hb⟩, hhpc, hhost⟩
  | idle hb hh => exact .inr (by simp [hh])
  | resultRead rest hb hh | resultUnwritten rest hb hh => exact .inr (by simp [hb, hh])
  | waits hb => exact .inr (by rcases hb with hb | hb <;> simp [hb])
  | initDone hb | startDone hb | stopDone hb | writeDone hb =>
    exact .inr (by simp [hb, State.chipAfterByte, State.chipAfterStop])
  | readFresh hb | readStale hb | readUnlatched hb => exact .inr (by simp [hb, State.chipAfterRead])

end Sys2Proof.Machine
end

section
/-! SUPPORT. The statements about who writes what (spec/10_state.md), from what a step writes. -/

open Sys2Proof Sys2Proof.Machine

/-- Settles O12: a step that moves the host has BUSY = NONE. -/
theorem hostHasNoStepWhileBusy : Obligations.HostHasNoStepWhileBusy := by
  intro s hb t h
  rcases (step_leaves h).2.host_moves with ⟨⟨_, _, _, hnone⟩, _⟩ | ⟨_, hhpc, hhost⟩
  · exact absurd hnone hb
  · exact ⟨hhost hb, hhpc⟩

/-- Settles O49: the two cases exclude each other. -/
theorem hpcCountsAcceptedCommands : Obligations.HpcCountsAcceptedCommands := by
  intro s t h
  rcases (step_leaves h).2.host_moves with ⟨hissue, hmoves⟩ | ⟨hno, hhpc, _⟩
  · exact ⟨fun _ => hmoves, fun hno => absurd hissue hno⟩
  · exact ⟨fun hissue => absurd hissue hno, fun _ => hhpc⟩

/-- Settles O43: only the first INIT writes INIT. -/
theorem onlyInitSetsInit : Obligations.OnlyInitSetsInit := by
  intro s t h
  rcases step_writes h with ⟨i, hb, ⟨rest, hh⟩, hi⟩ | ⟨hctl, _⟩
  · rcases hi.config with ⟨rfl, _, hone, _⟩ | ⟨hsame, _⟩
    · exact ⟨fun _ => hone, fun _ _ => ⟨rest, hh, hb⟩⟩
    · exact ⟨fun hone => hsame.trans hone, fun hzero hone => by simp [hsame, hzero] at hone⟩
  · exact ⟨fun hone => hctl.init.trans hone, fun hzero hone => by simp [hctl.init, hzero] at hone⟩

/-- Settles O48: only the first INIT writes CFG_DIV. -/
theorem onlyInitWritesDivisor : Obligations.OnlyInitWritesDivisor := by
  intro s t h hne
  rcases step_writes h with ⟨i, hb, hh, hi⟩ | ⟨hctl, _⟩
  · rcases hi.config with ⟨rfl, hzero, hone, hdiv⟩ | ⟨_, hsame⟩
    · exact ⟨hzero, hone, hdiv, hb, hh⟩
    · exact absurd hsame hne
  · exact absurd hctl.cfgDiv hne

/-- Settles O44: only a bus command writes TRACE, and it appends its one event. -/
theorem traceOnlyGrows : Obligations.TraceOnlyGrows := by
  intro s t h
  rcases step_writes h with ⟨i, hb, ⟨rest, hh⟩, hi⟩ | ⟨hctl, _⟩
  · rcases hi.transmit with ⟨e, _, _, htrace, _⟩ | ⟨hsame, _⟩
    · exact .inr ⟨⟨e, htrace⟩, hb, _, rest, hh⟩
    · exact .inl hsame
  · exact .inl hctl.trace

/-- Settles O46: the event of a command that loads TXD is a Write, so the command is that WRITE_BYTE. -/
theorem onlyWriteByteLoadsTxd : Obligations.OnlyWriteByteLoadsTxd := by
  intro s t h hne
  rcases step_writes h with ⟨i, hb, ⟨rest, hh⟩, hi⟩ | ⟨hctl, _⟩
  · rcases hi.transmit with ⟨e, w, he, htrace, htxd⟩ | ⟨_, hsame⟩
    · cases e with
      | write b =>
        obtain rfl := eq_writeByte_of_busEventOf he
        exact ⟨hb, b, rest, hh, htxd, htrace⟩
      | start | restart | stop | read => exact absurd htxd hne
    · exact absurd hsame hne
  · exact absurd hctl.txd hne

/-- Settles O45: a codec command or a read completion, and each sets RESV. -/
theorem onlyResultsWriteRes : Obligations.OnlyResultsWriteRes := by
  intro s t h
  rcases step_writes h with ⟨i, hb, ⟨rest, hh⟩, hi⟩ | ⟨_, hrx | hsame⟩
  · rcases hi.results with ⟨b, hres, rfl, hresv⟩ | ⟨hres, hresv⟩
    · refine ⟨fun _ => hresv, fun _ => ⟨hresv, .inr ⟨hb, ?_⟩⟩⟩
      obtain ⟨v, ⟨rfl, hval⟩ | ⟨rfl, hval⟩⟩ := resultOf_eq_some hres
      · exact ⟨v, rest, .inl ⟨hh, hval⟩⟩
      · exact ⟨v, rest, .inr ⟨hh, hval⟩⟩
    · exact ⟨fun hv => hresv.trans hv, fun hne => (hne.elim (· hres) (· hresv)).elim⟩
  · exact ⟨fun _ => hrx.resv, fun _ => ⟨hrx.resv, .inl hrx.busy⟩⟩
  · exact ⟨fun hv => hsame.resv.trans hv, fun hne => (hne.elim (· hsame.res) (· hsame.resv)).elim⟩

/-- Settles O47: only a read completion writes the latch; one that is not ready leaves RXD or loads the late byte. -/
theorem onlyReceiveWritesLatch : Obligations.OnlyReceiveWritesLatch := by
  intro s t h
  rcases step_writes h with ⟨i, _, _, hi⟩ | ⟨_, hrx | hsame⟩
  · obtain ⟨hrxd, hrxv⟩ := hi.latch_eq
    exact ⟨fun hv => hrxv.trans hv, fun hne => (hne.elim (· hrxd) (· hrxv)).elim⟩
  · refine ⟨fun _ => hrx.rxv, fun hne => ⟨hrx.busy, ?_, hrx.rxv⟩⟩
    rcases hrx.rxd with hdrawn | ⟨hstale, hv⟩
    · exact hdrawn
    · exact (hne.elim (· hstale) (· (hrx.rxv.trans hv.symm))).elim
  · exact ⟨fun hv => hsame.rxv.trans hv, fun hne => (hne.elim (· hsame.rxd) (· hsame.rxv)).elim⟩

end

section
/-! SUPPORT. Every update a step makes keeps the invariant (spec/10_state.md R21 to R23, spec/40_bus_transport.md R111,
R114, spec/60_exceptions.md R204). -/

namespace Sys2Proof.Machine

variable {s t : State}

/-! ## Updates of fields the invariant does not speak of -/

theorem State.Inv.popHost (h : s.Inv) : s.popHost.Inv :=
  ⟨h.phase_eq, h.framed, h.quiet, h.latched, h.wait, h.fault⟩

theorem State.Inv.advance (h : s.Inv) : s.advance.Inv :=
  ⟨h.phase_eq, h.framed, h.quiet, h.latched, h.wait, h.fault⟩

theorem State.Inv.drawn (h : s.Inv) : s.drawn.Inv :=
  ⟨h.phase_eq, h.framed, h.quiet, h.latched, h.wait, h.fault⟩

theorem State.Inv.setChip (h : s.Inv) (c : Chip) : (s.setChip c).Inv :=
  ⟨h.phase_eq, h.framed, h.quiet, h.latched, h.wait, h.fault⟩

theorem State.Inv.reacts (h : s.Inv) (c : Chip) : (s.reacts c).Inv := by
  rw [State.reacts_eq_setChip]
  exact h.setChip _

theorem State.Inv.lateByte (h : s.Inv) (b : Byte) (late : Bool) : (s.lateByte b late).Inv := by
  cases late with
  | false => exact h
  | true => exact ⟨h.phase_eq, h.framed, h.quiet, h.latched, h.wait, h.fault⟩

/-! ## Faults and waits -/

theorem State.faultFits_of_no_fault (h : s.fault = none) : s.faultFits := by
  simp [State.faultFits, h]

/-- A fault that fits the state keeps the invariant: nothing but FAULT is written (60_exceptions R204). -/
theorem State.Inv.raise {f : Fault} (h : s.Inv) (hfits : (s.raise f).faultFits) : (s.raise f).Inv :=
  ⟨h.phase_eq, h.framed, h.quiet, h.latched, h.wait, hfits⟩

/-- A wait that ends keeps the invariant. -/
theorem State.Inv.freed (h : s.Inv) (hf : s.fault = none) : (s.setBusy .none).Inv where
  phase_eq := h.phase_eq
  framed := h.framed
  quiet hi := by
    obtain ⟨htrace, _, hrxv⟩ := h.quiet hi
    exact ⟨htrace, rfl, hrxv⟩
  latched := h.latched
  wait := trivial
  fault := State.faultFits_of_no_fault hf

/-- While anything is in flight, INIT = 1 (40_bus_transport R101). -/
theorem State.Inv.init_of_busy (h : s.Inv) (hb : s.busy ≠ .none) : s.init = true := by
  by_contra hi
  exact hb (h.quiet (by simpa using hi)).2.1

/-! ## Results -/

theorem State.Inv.setRes (h : s.Inv) (hf : s.fault = none) (b : Byte) : (s.setRes b).Inv :=
  ⟨h.phase_eq, h.framed, h.quiet, fun _ => rfl, h.wait, State.faultFits_of_no_fault hf⟩

/-- A received byte comes with a result, and only after INIT (40_bus_transport R111). -/
theorem State.Inv.received (h : s.Inv) (hf : s.fault = none) (hi : s.init = true) (b : Byte) :
    ((s.latch b).setRes b).Inv where
  phase_eq := h.phase_eq
  framed := h.framed
  quiet h0 := absurd (hi.symm.trans h0) (by decide)
  latched _ := rfl
  wait := h.wait
  fault := State.faultFits_of_no_fault hf

/-! ## Commands -/

/-- The first INIT finds no event on the bus (40_bus_transport R101). -/
theorem State.Inv.configured (h : s.Inv) (hf : s.fault = none) (h0 : s.init = false) :
    (s.configure.setBusy .initDelay).Inv where
  phase_eq := h.phase_eq
  framed := h.framed
  quiet h1 := by cases h1
  latched := h.latched
  wait := (h.quiet h0).1
  fault := State.faultFits_of_no_fault hf

/-- A byte the framing table allows leads to WR or RD. -/
theorem framing_write_phase {p q : Phase} {b : Byte} (h : framing p (.write b) = some q) : q = .wr ∨ q = .rd := by
  cases p with
  | addr =>
    simp only [framing] at h
    split at h <;> cases h
    · exact .inr rfl
    · exact .inl rfl
  | wr => cases h; exact .inl rfl
  | idle | rd | rdDone => cases h

/-- The wait a bus command begins fits the phase the framing table gives (40_bus_transport R114). -/
theorem issued_waitFits {i : Instr} {e : BusEvent} {w : Busy} {p : Phase} (he : busEventOf i = some (e, w))
    (hp : framing s.phase e = some p) : (s.issued e p w).waitFits := by
  cases i with
  | start | restart | stop | readByte => cases he; exact framing_eq_phaseAfter hp
  | writeByte b => cases he; exact framing_write_phase hp
  | init | bcdEncode | bcdDecode => cases he

/-- A bus command that passes both checks appends an event the framing table allows, and PHASE follows TRACE. -/
theorem State.Inv.issued {i : Instr} {e : BusEvent} {w : Busy} {p : Phase} (h : s.Inv) (hf : s.fault = none)
    (he : busEventOf i = some (e, w)) (hi : s.init = true) (hp : framing s.phase e = some p) :
    (s.issued e p w).Inv where
  phase_eq := by simp [framing_eq_phaseAfter hp, h.phase_eq]
  framed := by
    have hallowed : (framing (phaseOfTrace s.trace) e).isSome = true := by rw [← h.phase_eq, hp]; rfl
    rw [State.issued_trace, wellFramedFrom_append, h.framed]
    exact hallowed
  quiet h0 := absurd (hi.symm.trans (by simpa using h0)) (by decide)
  latched := by simpa using h.latched
  wait := issued_waitFits he hp
  fault := State.faultFits_of_no_fault (by simpa using hf)

/-- Every command issued with BUSY = NONE and no fault keeps the invariant. -/
theorem CommandLeaves.inv {i : Instr} (hl : CommandLeaves i s t) (h : s.Inv) (hf : s.fault = none)
    (hb : s.busy = .none) : t.Inv := by
  cases hl with
  | configured _ h0 => exact h.configured hf h0
  | reinit _ h1 => exact h.raise (by simp [State.faultFits, hf, hb, h1])
  | uninitialized _ _ _ h0 => exact h.raise (by simp [State.faultFits, hf, hb, h0])
  | misframed _ _ _ h1 => exact h.raise (by simp [State.faultFits, hf, hb, h1])
  | issued e w p he h1 hp => exact h.issued hf he h1 hp
  | result b => exact h.setRes hf b

/-- Every step of every agent keeps the invariant. -/
theorem StepLeaves.inv (hl : StepLeaves s t) (h : s.Inv) (hf : s.fault = none) : t.Inv := by
  cases hl with
  | idle => exact h
  | resultRead => exact h.popHost
  | resultUnwritten _ hb _ hv => exact h.popHost.raise (by simp [State.faultFits, hf, hb, hv])
  | illegal _ _ _ hb => exact h.popHost.advance.raise (by simp [State.faultFits, hf, hb])
  | command _ _ _ t hb _ _ ht => exact ht.inv h.popHost.advance hf hb
  | initDone => exact h.freed hf
  | waits => exact h.drawn
  | startDone => exact (h.freed hf).drawn
  | writeDone => exact ((h.reacts _).freed (by simpa using hf)).drawn
  | readFresh hb =>
    have hi : s.init = true := h.init_of_busy (by simp [hb])
    exact (((h.reacts _).received (by simpa using hf) (by simpa using hi) _).freed (by simpa using hf)).drawn
  | readStale =>
    exact ((((h.reacts _).setRes (by simpa using hf) _).lateByte _ _).freed (by simpa using hf)).drawn
  | readUnlatched hb _ hv => exact ((h.reacts _).raise (by simp [State.faultFits, hf, hb, hv])).drawn
  | stopDone => exact (h.reacts _).freed (by simpa using hf)

end Sys2Proof.Machine

/-- Settles O41: every update a step can make keeps the invariant. -/
theorem stepKeepsInvariant : Obligations.StepKeepsInvariant := by
  intro s t h hs
  obtain ⟨hf, hl⟩ := Sys2Proof.Machine.step_leaves hs
  exact hl.inv h hf

end

section
/-! SUPPORT. The fields of an address byte (spec/30_encoding.md R80), and the chip's address bytes and register map
(spec/20_memory.md R51, R52). -/

namespace Sys2Proof.Machine

/-- The address sent is the address read back. -/
@[simp] theorem addrField_addressByte (a : BitVec 7) (rw : Bool) : addrField (addressByte a rw) = a :=
  BitVec.extractLsb'_append_eq_left

/-- The direction sent is the direction read back. -/
@[simp] theorem rwField_addressByte (a : BitVec 7) (rw : Bool) : rwField (addressByte a rw) = rw := by
  rw [rwField, addressByte, BitVec.getLsbD_append, if_pos Nat.zero_lt_one, BitVec.getLsbD_ofBool]
  simp

end Sys2Proof.Machine
end

section

open Sys2Proof.Machine

/-- Settles O58: the constants evaluate to the spec's numbers; the fields of an address byte are what it was built of. -/
theorem addressesAndRegisterMap : Obligations.AddressesAndRegisterMap := by
  have hfields (a : BitVec 7) (rw : Bool) : addrField (addressByte a rw) = a ∧ rwField (addressByte a rw) = rw :=
    ⟨addrField_addressByte a rw, rwField_addressByte a rw⟩
  exact ⟨rfl, rfl, rfl, hfields, rfl, rfl, rfl, rfl, rfl, rfl, rfl, rfl⟩

end

section
/-! SUPPORT. The decoder undoes the encoder, which words are illegal, and which row of the opcode map a word belongs to
(spec/30_encoding.md R73 to R76). -/

namespace Sys2Proof

/-! ## The decoder on the word of a command -/

/-- The opcode and the operand of a command's word name the command. -/
@[simp] theorem commandOf_fields (i : Instr) : commandOf i.fields.op i.fields.imm8 = some i := by
  cases i <;> rfl

@[simp] theorem rsv_fields (i : Instr) : i.fields.rsv = 0 := by
  cases i <;> rfl

/-- The word of a format Z command has no operand (30_encoding R71). -/
theorem imm8_fields_of_format_z {i : Instr} (h : i.format = .z) : i.fields.imm8 = 0 := by
  cases i with
  | init | start | restart | stop | readByte => rfl
  | writeByte | bcdEncode | bcdDecode => cases h

/-- The word of a command passes the decoder's three tests. -/
@[simp] theorem decode_encode (i : Instr) : decode (encode i) = .legal i := by
  have hz : ¬ (i.format = .z ∧ i.fields.imm8 ≠ 0) := fun ⟨hf, hi⟩ => hi (imm8_fields_of_format_z hf)
  rw [encode, decode_word, commandOf_fields]
  simp only [rsv_fields, ne_eq, not_true_eq_false, if_false, if_neg hz]

/-- The host's question about a command's own word is answered with the command. -/
theorem decodeTableWord_encode (i : Instr) : decodeTableWord 16 (encode i).toNat = some i := by
  have hlt : (encode i).toNat < 2 ^ 16 := (encode i).isLt
  rw [decodeTableWord, if_pos le_rfl, Nat.mod_eq_of_lt hlt, BitVec.ofNat_toNat, BitVec.setWidth_eq, decode_encode,
    Decoded.instr?]

/-- The fields of a legal word name its command. -/
theorem commandOf_of_decode {f : CommandFields} {i : Instr} (h : decode f.word = .legal i) :
    commandOf f.op f.imm8 = some i := by
  have hf : i.fields = f := by simpa [encode] using congrArg fieldsOf (encode_of_decode h)
  exact hf ▸ commandOf_fields i

/-! ## Illegal words -/

/-- The opcodes of format Z (30_encoding R71). -/
theorem format_eq_z_iff {op : BitVec 4} {imm8 : Byte} {i : Instr} (h : commandOf op imm8 = some i) :
    i.format = .z ↔ op.toNat ∈ [0x1, 0x2, 0x3, 0x4, 0x6] := by
  unfold commandOf at h
  split at h <;> cases h <;> simp_all [Instr.format]

/-- A word is illegal when its opcode is reserved or one of its must-be-zero fields is not 0 (30_encoding R74, R75). -/
theorem decode_illegal_iff (f : CommandFields) :
    (∃ why, decode f.word = .illegal why) ↔
      f.op.toNat ∉ [0x1, 0x2, 0x3, 0x4, 0x5, 0x6, 0x8, 0x9] ∨ f.rsv ≠ 0 ∨
        f.op.toNat ∈ [0x1, 0x2, 0x3, 0x4, 0x6] ∧ f.imm8 ≠ 0 := by
  rw [decode_word, ← commandOf_eq_none_iff f.op f.imm8]
  cases h : commandOf f.op f.imm8 with
  | none => simp
  | some i =>
    rw [← format_eq_z_iff h]
    by_cases hr : f.rsv = 0#4
    · by_cases hz : i.format = .z ∧ f.imm8 ≠ 0#8 <;> simp [hr, hz]
    · simp [hr]

/-! ## The rows of the opcode map -/

/-- The word of a command belongs to the row of its mnemonic, and to no other. -/
theorem hits_encode (i : Instr) : ∀ r ∈ opcodeTable, r.hits (encode i) = decide (r.mnemonic = i.mnemonic) := by
  cases i with
  | init => exact Laws.OpcodeMatch.init
  | start => exact Laws.OpcodeMatch.start
  | restart => exact Laws.OpcodeMatch.restart
  | stop => exact Laws.OpcodeMatch.stop
  | writeByte b => exact Laws.OpcodeMatch.writeByte b
  | readByte => exact Laws.OpcodeMatch.readByte
  | bcdEncode v => exact Laws.OpcodeMatch.bcdEncode v
  | bcdDecode b => exact Laws.OpcodeMatch.bcdDecode b

/-- Every command has a row, of its mnemonic and format. -/
theorem exists_row (i : Instr) : ∃ r ∈ opcodeTable, i.mnemonic = r.mnemonic ∧ i.format = r.format := by
  cases i <;> simp [opcodeTable, Instr.mnemonic, Instr.format]

/-- No two rows share a mnemonic. -/
theorem row_eq_of_mnemonic :
    ∀ r ∈ opcodeTable, ∀ r' ∈ opcodeTable, r'.mnemonic = r.mnemonic → r' = r := by decide

/-- The word of a WRITE_BYTE: its opcode byte, then its operand. -/
theorem encode_writeByte (b : Byte) : encode (.writeByte b) = 0x50#8 ++ b :=
  congrArg (fun hi : Byte => (hi ++ b : CommandWord)) (by decide : (0x5#4 ++ 0#4 : Byte) = 0x50#8)

/-- A mask acts on each field by itself. -/
theorem word_and_word (f g : CommandFields) :
    f.word &&& g.word = CommandFields.word ⟨f.op &&& g.op, f.rsv &&& g.rsv, f.imm8 &&& g.imm8⟩ :=
  BitVec.and_append.trans (congrArg (· ++ (f.imm8 &&& g.imm8)) BitVec.and_append)

/-- The mask of format Z compares the whole word. -/
theorem eq_of_and_mask_z {w p : CommandWord} (h : w &&& 0xFFFF = p) : w = p :=
  (BitVec.and_allOnes (x := w)).symm.trans h

/-- The mask of format B leaves the operand open and compares the other fields. -/
theorem eq_word_of_and_mask_b {w : CommandWord} {op : BitVec 4} (h : w &&& 0xFF00 = CommandFields.word ⟨op, 0, 0⟩) :
    CommandFields.word ⟨op, 0, (fieldsOf w).imm8⟩ = w := by
  have hmask : (0xFF00 : CommandWord) = CommandFields.word ⟨BitVec.allOnes 4, BitVec.allOnes 4, 0⟩ := by decide
  rw [hmask, ← word_fieldsOf w, word_and_word] at h
  have hfields := congrArg fieldsOf h
  simp only [fieldsOf_word, BitVec.and_allOnes, CommandFields.mk.injEq] at hfields
  obtain ⟨hop, hrsv, -⟩ := hfields
  rw [← hop, ← hrsv, word_fieldsOf]

/-- A word that belongs to a row is the word of a command. -/
theorem exists_encode_of_hits {r : OpcodeRow} {w : CommandWord} (hr : r ∈ opcodeTable) (h : r.hits w = true) :
    ∃ i, encode i = w := by
  have heq : w &&& r.mask = r.pattern := beq_iff_eq.1 h
  simp only [opcodeTable, List.mem_cons, List.not_mem_nil, or_false] at hr
  rcases hr with rfl | rfl | rfl | rfl | rfl | rfl | rfl | rfl
  · exact ⟨.init, (eq_of_and_mask_z heq).symm⟩
  · exact ⟨.start, (eq_of_and_mask_z heq).symm⟩
  · exact ⟨.restart, (eq_of_and_mask_z heq).symm⟩
  · exact ⟨.stop, (eq_of_and_mask_z heq).symm⟩
  · exact ⟨.writeByte _, eq_word_of_and_mask_b heq⟩
  · exact ⟨.readByte, (eq_of_and_mask_z heq).symm⟩
  · exact ⟨.bcdEncode _, eq_word_of_and_mask_b heq⟩
  · exact ⟨.bcdDecode _, eq_word_of_and_mask_b heq⟩

/-- The word of a command belongs to one row, of the command's mnemonic and format (30_encoding R76). -/
theorem exists_unique_row (i : Instr) :
    ∃ r ∈ opcodeTable, r.hits (encode i) = true ∧ (∀ r' ∈ opcodeTable, r'.hits (encode i) = true → r' = r) ∧
      i.mnemonic = r.mnemonic ∧ i.format = r.format := by
  obtain ⟨r, hr, hm, hf⟩ := exists_row i
  refine ⟨r, hr, by rw [hits_encode i r hr, hm, decide_eq_true rfl], fun r' hr' h => ?_, hm, hf⟩
  rw [hits_encode i r' hr', decide_eq_true_iff, hm] at h
  exact row_eq_of_mnemonic r hr r' hr' h

/-- An illegal word belongs to no row (30_encoding R76). -/
theorem hits_eq_false_of_illegal {w : CommandWord} {why : Illegal} (h : decode w = .illegal why) :
    ∀ r ∈ opcodeTable, r.hits w = false := by
  intro r hr
  by_contra hhit
  obtain ⟨i, rfl⟩ := exists_encode_of_hits hr (Bool.eq_true_of_not_eq_false hhit)
  rw [decode_encode] at h
  cases h

end Sys2Proof

namespace Sys2Proof.Machine

/-- The issue step of an illegal word: HPC advances, the word is taken off the list, FAULT takes ILLEGAL_COMMAND. -/
theorem step_of_illegal {s : State} {w : CommandWord} {rest : List HostStep}
    (hf : s.fault = none) (hb : s.busy = .none) (hh : s.host = .issue w :: rest) (hw : ∃ why, decode w = .illegal why) :
    step s = .next { s with host := rest, hpc := s.hpc + 1, fault := some .illegalCommand } := by
  obtain ⟨why, hd⟩ := hw
  have hraise := State.raise_of_no_fault (s := s.popHost.advance) .illegalCommand hf
  have hpop : s.popHost = { s with host := rest } := by rw [State.popHost, hh, List.tail_cons]
  rw [step_of_idle hf hb, hostStep, hh]
  dsimp only
  rw [issue_of_illegal _ hd, hraise, hpop, State.advance]

end Sys2Proof.Machine
end

section
/-! SUPPORT. The statements about the encoding (spec/30_encoding.md). -/

open Sys2Proof Sys2Proof.Machine

/-- Settles O1: the word of a command passes the decoder's three tests. -/
theorem decodeEncodeRoundTrip : Obligations.DecodeEncodeRoundTrip := decode_encode

/-- Settles O2: the fields of a legal word are those of its command. -/
theorem legalWordIsItsCommandsWord : Obligations.LegalWordIsItsCommandsWord := fun _ _ => encode_of_decode

/-- Settles O3: a legal word is its command's word, which has one row; a word of any row is a command's. The decode
function's branches are the three causes of an illegal word, in order. -/
theorem everyWordMatchesOneRowOrIsIllegal : Obligations.EveryWordMatchesOneRowOrIsIllegal := by
  rintro op rsv imm _ rfl
  have hillegal := decode_illegal_iff ⟨op, rsv, imm⟩
  constructor
  · cases hd : decode (op ++ rsv ++ imm) with
    | legal i =>
      obtain ⟨r, hr, hhit, hone, hm, hf⟩ := exists_unique_row i
      rw [encode_of_decode hd] at hhit hone
      exact .inl ⟨r, hr, i, hhit, hone, rfl, hm, hf⟩
    | illegal why => exact .inr ⟨hits_eq_false_of_illegal hd, why, rfl⟩
  · split_ifs with hop hrsv himm
    · exact hillegal.2 (.inr (.inl hrsv))
    · exact hillegal.2 (.inr (.inr himm))
    · cases hd : decode (op ++ rsv ++ imm) with
      | legal i => exact ⟨i, commandOf_of_decode (f := ⟨op, rsv, imm⟩) hd, rfl⟩
      | illegal why =>
        rcases hillegal.1 ⟨why, hd⟩ with h | h | h
        · exact absurd hop h
        · exact absurd h hrsv
        · exact absurd h himm
    · exact hillegal.2 (.inl hop)

/-- Settles O4: each word is the word of its command. -/
theorem wordsOfTheOpcodeMapDecode : Obligations.WordsOfTheOpcodeMapDecode :=
  ⟨decodeTableWord_encode .init, decodeTableWord_encode .start, decodeTableWord_encode .restart,
    decodeTableWord_encode .stop, decodeTableWord_encode (.writeByte 0xD0), decodeTableWord_encode .readByte,
    decodeTableWord_encode (.bcdEncode 85), decodeTableWord_encode (.bcdDecode 0x85)⟩

/-- Settles O5: the words with a fixed operand are numbers, the others are the opcode byte of WRITE_BYTE and the byte. -/
theorem fieldSequencesExpand : Obligations.FieldSequencesExpand := by
  intro r v
  simp only [readField, writeField, List.map_cons, List.map_nil, encode_writeByte]
  exact ⟨rfl, rfl⟩

/-- Settles O6: a reserved opcode is one of the causes of an illegal word. -/
theorem reservedOpcodesFault : Obligations.ReservedOpcodesFault := by
  intro s op rsv imm rest hf hb hh hop
  refine step_of_illegal hf hb hh ((decode_illegal_iff ⟨op, rsv, imm⟩).2 (.inl ?_))
  have hdisjoint : ∀ op : BitVec 4, op.toNat ∈ [0x0, 0x7, 0xA, 0xB, 0xC, 0xD, 0xE, 0xF] →
      op.toNat ∉ [0x1, 0x2, 0x3, 0x4, 0x5, 0x6, 0x8, 0x9] := by decide
  exact hdisjoint op hop

/-- Settles O7: the two must-be-zero fields are the other causes of an illegal word. -/
theorem mustBeZeroFieldsFault : Obligations.MustBeZeroFieldsFault := by
  intro s op rsv imm rest hf hb hh hbad
  exact step_of_illegal hf hb hh ((decode_illegal_iff ⟨op, rsv, imm⟩).2 (.inr (hbad.imp_left And.right)))

end

section
/-! SUPPORT. The issue step of a legal word, the bus commands by the event they emit, and the completion steps
(spec/40_bus_transport.md). -/

namespace Sys2Proof

/-- Every command carries a byte operand or none, so its word is well formed. -/
theorem Instr.wellFormed_eq_true (i : Instr) : i.wellFormed = true := by
  cases i <;> rfl

end Sys2Proof

namespace Sys2Proof.Machine

variable {s t : State} {i : Instr} {e : BusEvent} {w : Busy}

/-! ## The issue step -/

theorem State.ready_iff : s.ready = true ↔ s.busy = .none := beq_iff_eq

/-- The issue step of a legal word: HPC advances, the word is taken off the list, the command runs (40_bus_transport
R100). -/
theorem step_of_legal {word : CommandWord} {rest : List HostStep} (hf : s.fault = none) (hb : s.busy = .none)
    (hh : s.host = .issue word :: rest) (hd : decode word = .legal i) :
    step s = exec i { s with host := rest, hpc := s.hpc + 1 } := by
  have hpop : s.popHost = { s with host := rest } := by rw [State.popHost, hh, List.tail_cons]
  rw [step_of_idle hf hb, hostStep, hh]
  dsimp only
  rw [issue_of_legal _ hd, hpop, State.advance]

/-- A placed command word is the host's next step, with the host free to take it (log entry 11). -/
theorem withFetchWord_toNat (s : State) (word : CommandWord) :
    s.withFetchWord 16 word.toNat = { s with host := .issue word :: s.host, busy := .none, fault := none } := by
  rw [State.withFetchWord, Nat.mod_eq_of_lt word.isLt, BitVec.ofNat_toNat, BitVec.setWidth_eq, placeCommand]

/-! ## The bus commands, by the event each emits -/

/-- The five bus commands, each with its event. -/
theorem exists_busEvent {b : Byte}
    (h : i ∈ [Instr.start, Instr.restart, Instr.stop, Instr.writeByte b, Instr.readByte]) :
    ∃ e w, busEventOf i = some (e, w) := by
  simp only [List.mem_cons, List.not_mem_nil, or_false] at h
  rcases h with rfl | rfl | rfl | rfl | rfl <;> exact ⟨_, _, rfl⟩

/-- Only a Write loads TXD. -/
theorem State.loadTxd_eq_self (s : State) (h : ∀ b, e ≠ .write b) : s.loadTxd e = s := by
  cases e with
  | write b => exact absurd rfl (h b)
  | start | restart | stop | read => rfl

theorem after_of_busEvent (he : busEventOf i = some (e, w)) : s.after i = busCommand e w s := by
  cases i <;> cases he <;> rfl

/-- A bus command is held in a wait. -/
theorem wait_ne_none (he : busEventOf i = some (e, w)) : w ≠ .none := by
  cases i <;> cases he <;> decide

/-- With INIT = 1 and an event the framing table allows, the event is emitted and the host is held. -/
theorem exec_issues {p : Phase} (he : busEventOf i = some (e, w)) (hi : s.init = true)
    (hp : framing s.phase e = some p) : exec i s = .next (s.issued e p w) ∧ (s.issued e p w).hostHeld := by
  rw [exec_eq_next, after_of_busEvent he, busCommand_of_legal hi hp]
  exact ⟨rfl, hostHasNoStepWhileBusy _ (by simpa using wait_ne_none he)⟩

theorem exec_uninitialized (he : busEventOf i = some (e, w)) (hf : s.fault = none) (hi : s.init = false) :
    exec i s = .next { s with fault := some .notInitialized } := by
  rw [exec_eq_next, after_of_busEvent he, busCommand_of_uninitialized hi, State.raise_of_no_fault _ hf]

theorem exec_misframed (he : busEventOf i = some (e, w)) (hf : s.fault = none) (hi : s.init = true)
    (hp : framing s.phase e = none) : exec i s = .next { s with fault := some .framing } := by
  rw [exec_eq_next, after_of_busEvent he, busCommand_of_framing hi hp, State.raise_of_no_fault _ hf]

/-- With INIT = 1 a bus command follows the framing table (40_bus_transport R114). -/
theorem exec_framed (he : busEventOf i = some (e, w)) (hi : s.init = true) (hf : s.fault = none) :
    ∃ t, exec i s = .next t ∧ (∀ {p q}, s.phase = p → framing p e = some q → t.phase = q ∧ t.fault = none) ∧
      ∀ {p}, s.phase = p → framing p e = none → t = { s with fault := some .framing } := by
  cases hcell : framing s.phase e with
  | none =>
    refine ⟨_, exec_misframed he hf hi hcell, ?_, fun _ _ => rfl⟩
    rintro _ _ rfl hq
    cases hcell.symm.trans hq
  | some p =>
    refine ⟨_, (exec_issues he hi hcell).1, ?_, ?_⟩
    · rintro _ _ rfl hq
      cases hcell.symm.trans hq
      exact ⟨s.issued_phase e p w, (s.issued_fault e p w).trans hf⟩
    · rintro _ rfl hq
      cases hcell.symm.trans hq

/-- START and RESTART, the commands that wait for condition-complete, share a row of the framing table. -/
theorem framing_of_startWait (he : busEventOf i = some (e, .startWait)) (p : Phase) :
    framing p e = framing p .start := by
  cases i <;> cases he
  · rfl
  · cases p <;> rfl

/-- START and RESTART have one rule (40_bus_transport R103, R105). -/
theorem exec_opens_address_phase (he : busEventOf i = some (e, .startWait)) (s : State) :
    (s.init = true → s.phase = .idle ∨ s.phase = .wr ∨ s.phase = .rdDone →
      exec i s = .next (s.issued e .addr .startWait) ∧ (s.issued e .addr .startWait).hostHeld) ∧
    (s.fault = none → s.init = false → exec i s = .next { s with fault := some .notInitialized }) ∧
    (s.fault = none → s.init = true → s.phase = .addr ∨ s.phase = .rd →
      exec i s = .next { s with fault := some .framing }) := by
  refine ⟨fun hi hp => exec_issues he hi ?_, exec_uninitialized he, fun hf hi hp => exec_misframed he hf hi ?_⟩
  · rw [framing_of_startWait he]
    rcases hp with hp | hp | hp <;> rw [hp] <;> rfl
  · rw [framing_of_startWait he]
    rcases hp with hp | hp <;> rw [hp] <;> rfl

/-- The address byte's bit 0 gives the direction (40_bus_transport R108). -/
theorem framing_addr_write (b : Byte) : framing .addr (.write b) = some (if b.getLsbD 0 then .rd else .wr) := by
  rw [framing, rwField]
  split <;> rfl

/-! ## What a command leaves -/

theorem CommandLeaves.environment_eq (h : CommandLeaves i s t) :
    t.env = s.env ∧ t.params = s.params ∧ t.draws = s.draws ∧ t.chip = s.chip := by
  cases h <;> simp

/-! ## The completion steps -/

/-- The slave's reaction as one record update: the chip alone, where the reference slave is attached. -/
theorem State.reacts_eq (s : State) (c : Chip) :
    s.reacts c = s.setChip (if s.env = .reference then c else s.chip) := by
  rcases State.reacts_cases s c with ⟨he, hs⟩ | ⟨he, hs⟩
  · rw [hs, if_pos he]
  · rw [hs, if_neg he, State.setChip]

/-- A bus wait is a wait step, whose lifted state is free and without a fault. -/
theorem step_of_busWait (hf : s.fault = none) (hb : s.busy = .startWait ∨ s.busy = .txWait) :
    ∃ lifted : State, lifted.fault = none ∧ lifted.busy = .none ∧ step s = .next (waitStep s lifted) := by
  rcases hb with hb | hb
  · exact ⟨completeStart s, hf, rfl, step_of_startWait hf hb⟩
  · exact ⟨completeWrite s.ackDraw s.chipAfterByte, by simp [completeWrite, State.chipAfterByte, hf], rfl,
      step_of_txWait hf hb⟩

/-- Without a signal nothing but the draw counter moves (log entry 5). -/
theorem step_of_unsignalled (hf : s.fault = none) (hb : s.busy = .startWait ∨ s.busy = .txWait)
    (hc : s.busCompletes = false) : step s = .next s.drawn := by
  obtain ⟨lifted, -, -, hs⟩ := step_of_busWait hf hb
  rw [hs, waitStep, if_neg (by simp [hc])]

/-- Where the environment never signals from this draw on, the machine stays in its wait (40_bus_transport R112). -/
theorem runFor_of_never_signals (hf : s.fault = none) (hb : s.busy = .startWait ∨ s.busy = .txWait)
    (hnever : ∀ k, ({ s with draws := s.draws + k } : State).busCompletes = false) (n : Nat) :
    runFor n s = .next { s with draws := s.draws + n } := by
  induction n with
  | zero => rfl
  | succ n ih =>
    have hstep := step_of_unsignalled (s := { s with draws := s.draws + n }) hf hb (hnever n)
    rw [runFor_add ih 1, runFor_of_step hstep]
    rfl

/-- The receive delay always ends, and a ready receive returns the slave's byte (40_bus_transport R110, R111). -/
theorem step_of_rxDelay_ends (hf : s.fault = none) (hb : s.busy = .rxDelay) :
    ∃ t, step s = .next t ∧ (t.busy = .none ∨ t.fault = some .unlatchedRead) ∧
      (s.params.rxDelaySufficient = true ∨ s.rxReadyDraw = true →
        t.busy = .none ∧ t.res = s.rxByteDraw ∧ t.resv = true) := by
  have hparams : s.chipAfterRead.params = s.params := s.reacts_params _
  have hfault : s.chipAfterRead.fault = none := (s.reacts_fault _).trans hf
  refine ⟨_, step_of_rxDelay hf hb, ?_⟩
  rcases completeRead_cases s.rxByteDraw s.rxReadyDraw s.rxLateDraw s.chipAfterRead with
    ⟨-, hs⟩ | ⟨hr, -, hs⟩ | ⟨hr, -, hs⟩ <;> rw [hs]
  · exact ⟨.inl rfl, fun _ => ⟨rfl, rfl, rfl⟩⟩
  · exact ⟨.inl rfl, fun hready => absurd hready (by simpa [hparams] using hr)⟩
  · exact ⟨.inr (by simp [hfault]), fun hready => absurd hready (by simpa [hparams] using hr)⟩

end Sys2Proof.Machine
end

section
/-! SUPPORT. The statements about the bus transport (spec/40_bus_transport.md). -/

open Sys2Proof Sys2Proof.Machine

/-! ## The host's step -/

/-- Settles O8: a placed word is the host's next step. -/
theorem stepRunsDecodedCommand : Obligations.StepRunsDecodedCommand := by
  refine ⟨fun s w i rest hf hb hh hd => ⟨i.wellFormed_eq_true, step_of_legal hf hb hh hd⟩, fun s w i hd => ?_⟩
  rw [withFetchWord_toNat]
  exact step_of_legal rfl rfl rfl hd

/-- Settles O9: only an issue step moves HPC; an enabled one has a next state, whichever the word is. -/
theorem issueStepIsGuarded : Obligations.IssueStepIsGuarded := by
  refine fun s => ⟨fun g => step_of_fault, fun t h hne => ?_, fun w rest hf hr hh => ?_⟩
  · obtain ⟨hf, hl⟩ := step_leaves h
    rcases hl.host_moves with ⟨⟨w, rest, hh, hb⟩, -⟩ | ⟨-, hsame, -⟩
    · exact ⟨hf, State.ready_iff.2 hb, w, rest, hh⟩
    · exact absurd hsame hne
  · have hb := State.ready_iff.1 hr
    cases hd : decode w with
    | legal i =>
      have hexec := exec_eq_next i { s with host := rest, hpc := s.hpc + 1 }
      refine ⟨_, (step_of_legal hf hb hh hd).trans hexec, (exec_leaves hexec).host_eq.1, ?_, nofun⟩
      rintro j ⟨⟩
      exact hexec
    | illegal why => exact ⟨_, step_of_illegal hf hb hh ⟨why, hd⟩, rfl, nofun, fun _ _ => rfl⟩

/-! ## Completion steps -/

/-- Settles O20: the completion writes BUSY. -/
theorem initCompletionFreesHost : Obligations.InitCompletionFreesHost := fun _ => step_of_initDelay

/-- Settles O21: the wait step asks the environment, and its completion writes BUSY. -/
theorem startCompletionAwaitsBus : Obligations.StartCompletionAwaitsBus := fun _ => step_of_startWait

/-- Settles O22: the slave takes its part, then the completion writes BUSY. -/
theorem stopCompletionFreesHost : Obligations.StopCompletionFreesHost := by
  intro s hf hb
  rw [step_of_stopDelay hf hb, State.chipAfterStop, State.reacts_eq]
  rfl

/-- Settles O23: the slave takes its part, then the completion writes BUSY; it does not read the acknowledgment. -/
theorem writeCompletionIgnoresAck : Obligations.WriteCompletionIgnoresAck := by
  intro s hf hb
  refine ⟨?_, fun a => step_of_txWait hf hb⟩
  rw [step_of_txWait hf hb, State.chipAfterByte, State.reacts_eq]
  rfl

/-- Settles O24: the three outcomes of the read completion, after the slave's part. -/
theorem readCompletionReturnsLatch : Obligations.ReadCompletionReturnsLatch := by
  intro s hf hb
  obtain ⟨c, hc, hchip⟩ : ∃ c, c = (if s.env = .reference then { s.chip with ptr := none } else s.chip) ∧
      s.chipAfterRead = s.setChip c := ⟨_, rfl, State.reacts_eq s s.chip.afterRead⟩
  refine ⟨c, hc, ?_⟩
  rw [step_of_rxDelay hf hb, hchip]
  rcases completeRead_cases s.rxByteDraw s.rxReadyDraw s.rxLateDraw (s.setChip c) with
    ⟨hr, hs⟩ | ⟨hr, hv, hs⟩ | ⟨hr, hv, hs⟩ <;> rw [hs]
  · rw [if_pos (by simpa using hr)]
    rfl
  · rw [if_neg (by simpa using hr), if_pos (show s.rxv = true from hv)]
    cases s.rxLateDraw <;> rfl
  · rw [if_neg (by simpa using hr), if_neg (by simpa using hv), State.raise_of_no_fault (s := s.setChip c) _ hf]
    rfl

/-- Settles O25: without a signal a wait step moves the draw counter alone; each delay wait has its completion. -/
theorem waitHasNoTimeout : Obligations.WaitHasNoTimeout := by
  refine ⟨fun s hf hb => ⟨runFor_of_never_signals hf hb, fun t h => ?_⟩, fun s hf hb => ?_, fun s hf hb => ?_⟩
  · obtain ⟨lifted, hlf, hlb, hs⟩ := step_of_busWait hf hb
    rw [hs] at h
    cases h
    rcases waitStep_cases s lifted with ⟨hc, hw⟩ | ⟨-, hw⟩ <;> rw [hw]
    · exact ⟨hlf, fun _ => ⟨hlb, hc⟩⟩
    · exact ⟨hf, fun hne => absurd rfl hne⟩
  · rcases hb with hb | hb
    · exact ⟨_, initCompletionFreesHost s hf hb, rfl, hf⟩
    · exact ⟨_, stopCompletionFreesHost s hf hb, rfl, hf⟩
  · obtain ⟨t, h, hends, -⟩ := step_of_rxDelay_ends hf hb
    exact ⟨t, h, hends⟩

/-! ## The six bus commands -/

/-- Settles O13: only the first INIT configures; before it no event has been emitted, so PHASE is still IDLE. -/
theorem initConfiguresOnce : Obligations.InitConfiguresOnce := by
  refine ⟨rfl, fun s => ⟨fun h0 => ⟨?_, hostHasNoStepWhileBusy _ nofun⟩, fun hf h1 => ?_, fun hinv h0 => ?_⟩,
    fun i s t h hne => ?_, _, _, rfl, rfl, rfl, rfl, rfl⟩
  · rw [exec_eq_next, State.after, h0]
    rfl
  · rw [exec_eq_next, State.after, if_pos h1, State.raise_of_no_fault _ hf]
  · obtain ⟨htrace, -⟩ := hinv.quiet h0
    rw [hinv.phase_eq, htrace]
    rfl
  · rcases (exec_leaves h).config with ⟨hi, -⟩ | ⟨hsame, -⟩
    · exact hi
    · exact absurd hsame hne

/-- Settles O14: START waits for condition-complete. -/
theorem startOpensAddressPhase : Obligations.StartOpensAddressPhase := ⟨rfl, exec_opens_address_phase (e := .start) rfl⟩

/-- Settles O15: RESTART waits for condition-complete. -/
theorem restartOpensAddressPhase : Obligations.RestartOpensAddressPhase :=
  ⟨rfl, exec_opens_address_phase (e := .restart) rfl, fun _ => ⟨rfl, rfl⟩⟩

/-- Settles O16: the framing row of Stop, and the completion of its delay. -/
theorem stopReleasesBus : Obligations.StopReleasesBus := by
  refine ⟨rfl, fun s => ⟨fun hi hp => ?_, exec_uninitialized rfl, fun hf hi hp => exec_misframed rfl hf hi ?_⟩⟩
  · have hallowed : framing s.phase .stop = some .idle := by rcases hp with hp | hp <;> rw [hp] <;> rfl
    obtain ⟨hexec, hheld⟩ := exec_issues (i := .stop) rfl hi hallowed
    refine ⟨hexec, hheld, fun hf => ⟨_, ?_, ?_, ?_, stopCompletionFreesHost _ hf rfl⟩⟩ <;> rfl
  · rcases hp with hp | hp | hp <;> rw [hp] <;> rfl

/-- Settles O17: the framing row of Write, whose cell in ADDR reads the direction bit. -/
theorem writeByteTransmits : Obligations.WriteByteTransmits := by
  refine fun s b => ⟨encode_writeByte b, fun hi hp => ?_, fun hi hp => ?_, exec_uninitialized rfl,
    fun hf hi hp => exec_misframed rfl hf hi ?_⟩
  · have hcell : framing s.phase (.write b) = some (if b.getLsbD 0 then .rd else .wr) := by rw [hp, framing_addr_write]
    exact exec_issues (i := .writeByte b) rfl hi hcell
  · exact exec_issues (i := .writeByte b) (p := s.phase) rfl hi (by rw [hp]; rfl)
  · rcases hp with hp | hp | hp <;> rw [hp] <;> rfl

/-- Settles O18: the framing row of Read, and the completion of its delay. -/
theorem readByteTriggersReceive : Obligations.ReadByteTriggersReceive := by
  refine ⟨rfl, fun s => ⟨fun hi hp => ?_, step_of_rxDelay_ends, exec_uninitialized rfl,
    fun hf hi hp => exec_misframed rfl hf hi ?_⟩⟩
  · exact exec_issues (i := .readByte) rfl hi (by rw [hp]; rfl)
  · cases h : s.phase with
    | rd => exact absurd h hp
    | idle | addr | wr | rdDone => rfl

/-- Settles O19: each cell of the table, by phase. -/
theorem framingTableHolds : Obligations.FramingTableHolds := by
  intro s hi hf
  refine ⟨fun i hmem => ?_, fun b => ?_, ?_, ?_⟩
  · obtain ⟨e, he⟩ : ∃ e, busEventOf i = some (e, .startWait) := by
      rcases List.mem_pair.1 hmem with rfl | rfl <;> exact ⟨_, rfl⟩
    have hrow := framing_of_startWait he
    obtain ⟨t, ht, hlegal, hfault⟩ := exec_framed he hi hf
    refine ⟨t, ht, ?_⟩
    split <;> rename_i hp
    exacts [hlegal hp (hrow _), hfault hp (hrow _), hlegal hp (hrow _), hfault hp (hrow _), hlegal hp (hrow _)]
  · obtain ⟨t, ht, hlegal, hfault⟩ := exec_framed (i := .writeByte b) rfl hi hf
    refine ⟨t, ht, ?_⟩
    split <;> rename_i hp
    · exact hfault hp rfl
    · obtain ⟨hphase, hnone⟩ := hlegal hp (framing_addr_write b)
      exact ⟨hnone, fun hbit => by rw [hphase, hbit]; rfl, fun hbit => by rw [hphase, hbit]; rfl⟩
    · exact hlegal hp rfl
    · exact hfault hp rfl
    · exact hfault hp rfl
  · obtain ⟨t, ht, hlegal, hfault⟩ := exec_framed (i := .readByte) rfl hi hf
    refine ⟨t, ht, ?_⟩
    split <;> rename_i hp
    exacts [hfault hp rfl, hfault hp rfl, hfault hp rfl, hlegal hp rfl, hfault hp rfl]
  · obtain ⟨t, ht, hlegal, hfault⟩ := exec_framed (i := .stop) rfl hi hf
    refine ⟨t, ht, ?_⟩
    split <;> rename_i hp
    exacts [hfault hp rfl, hfault hp rfl, hlegal hp rfl, hfault hp rfl, hlegal hp rfl]

/-! ## Frames -/

/-- Settles O50: no outcome of a command moves another agent. -/
theorem commandsLeaveOtherAgentsAlone : Obligations.CommandsLeaveOtherAgentsAlone := by
  intro i s t h
  have hl := exec_leaves h
  obtain ⟨hrxd, hrxv⟩ := hl.latch_eq
  obtain ⟨hhpc, hhost⟩ := hl.host_eq
  obtain ⟨henv, hparams, hdraws, hchip⟩ := hl.environment_eq
  exact ⟨hrxd, hrxv, hhpc, hhost, henv, hparams, hdraws, hchip, fun a => by rw [hchip]⟩

/-- Settles O51: both faults of the issue step write FAULT alone, and an event it emits loads TXD only where it is a
Write. -/
theorem busCommandFrame : Obligations.BusCommandFrame := by
  intro b s t i hmem h
  obtain ⟨e, w, he⟩ := exists_busEvent hmem
  rw [exec_eq_next, after_of_busEvent he] at h
  cases h
  rcases busCommand_cases e w s with ⟨-, hs⟩ | ⟨-, -, hs⟩ | ⟨-, p, -, hs⟩ <;> rw [hs]
  · simp
  · simp
  · refine ⟨by simp, by simp, by simp, by simp, fun hne => ?_, fun hfault => absurd (by simp) hfault⟩
    have hkeeps : s.loadTxd e = s := by
      refine State.loadTxd_eq_self s ?_
      rintro c rfl
      obtain rfl := eq_writeByte_of_busEventOf he
      exact hne (by simpa using hmem)
    rw [State.issued_txd, hkeeps]

/-- Settles O52: INIT configures or raises REINIT. -/
theorem initFrame : Obligations.InitFrame := by
  intro s t h
  cases exec_leaves h with
  | configured => exact ⟨rfl, rfl, rfl, rfl, rfl, fun hne => absurd rfl hne⟩
  | reinit => exact ⟨rfl, rfl, rfl, rfl, rfl, fun _ => ⟨rfl, rfl, rfl⟩⟩
  | uninitialized _ _ he | misframed _ _ he | issued _ _ _ he => cases he
  | result _ hb => cases hb

end

section
/-! SUPPORT. The packed-BCD codec as arithmetic on the two digit fields, and the two codec commands
(spec/41_bcd_codec.md). -/

namespace Sys2Proof

/-- A format B word starts with its opcode byte: the opcode, then the four zeros of `rsv` (30_encoding R71). -/
theorem word_of_opcodeByte {op : BitVec 4} {high : Byte} (h : op ++ 0#4 = high) (imm8 : Byte) :
    CommandFields.word ⟨op, 0, imm8⟩ = high ++ imm8 := by
  subst h
  rfl

/-- The word of a BCD_ENCODE: its opcode byte, then its operand. -/
theorem encode_bcdEncode (v : Byte) : encode (.bcdEncode v) = 0x80#8 ++ v :=
  word_of_opcodeByte (op := 0x8) (by decide) v

/-- The word of a BCD_DECODE: its opcode byte, then its operand. -/
theorem encode_bcdDecode (b : Byte) : encode (.bcdDecode b) = 0x90#8 ++ b :=
  word_of_opcodeByte (op := 0x9) (by decide) b

end Sys2Proof

namespace Sys2Proof.Machine

variable {s t : State}

/-! ## The digit fields -/

theorem toNat_tensField (b : Byte) : (tensField b).toNat = b.toNat / 16 := by
  have hb : b.toNat < 256 := b.isLt
  simp only [tensField, BitVec.extractLsb'_toNat, Nat.shiftRight_eq_div_pow]
  omega

theorem toNat_onesField (b : Byte) : (onesField b).toNat = b.toNat % 16 := by
  simp [onesField]

/-! ## bcd_encode (41_bcd_codec R140) -/

theorem toNat_bcdEncode (v : Byte) : (bcdEncode v).toNat = (v.toNat / 10 * 16 + v.toNat % 10) % 256 := by
  rw [bcdEncode, BitVec.toNat_ofNat, Nat.shiftLeft_eq]

/-- The tens field holds v / 10, truncated to 4 bits. -/
theorem tensField_bcdEncode (v : Byte) : tensField (bcdEncode v) = BitVec.ofNat 4 (v.toNat / 10) := by
  apply BitVec.eq_of_toNat_eq
  rw [toNat_tensField, toNat_bcdEncode, BitVec.toNat_ofNat]
  omega

/-- The ones field holds v % 10, which fits. -/
theorem onesField_bcdEncode (v : Byte) : onesField (bcdEncode v) = BitVec.ofNat 4 (v.toNat % 10) := by
  apply BitVec.eq_of_toNat_eq
  rw [toNat_onesField, toNat_bcdEncode, BitVec.toNat_ofNat]
  omega

/-! ## bcd_decode (41_bcd_codec R141) -/

/-- The legacy mask drops the top bit of the tens field. -/
theorem and_tensMask_legacy (n : Nat) : n &&& tensMask .legacy = n % 8 := Nat.and_two_pow_sub_one_eq_mod n 3

/-- The corrected mask keeps the tens field whole. -/
theorem and_tensMask_corrected (n : Nat) : n &&& tensMask .corrected = n % 16 := Nat.and_two_pow_sub_one_eq_mod n 4

theorem tensMask_le (m : DecodeMode) : tensMask m ≤ 15 := by
  cases m <;> decide

/-- Ten times the masked tens field plus the ones field: at most 165, so nothing is truncated. -/
theorem toNat_bcdDecode (m : DecodeMode) (b : Byte) :
    (bcdDecode m b).toNat = ((tensField b).toNat &&& tensMask m) * 10 + (onesField b).toNat := by
  have htens : (tensField b).toNat &&& tensMask m ≤ 15 := Nat.and_le_right.trans (tensMask_le m)
  have hones : b.toNat &&& 0x0F = (onesField b).toNat := by
    rw [toNat_onesField]
    exact Nat.and_two_pow_sub_one_eq_mod _ 4
  have hlt : (onesField b).toNat < 16 := (onesField b).isLt
  rw [bcdDecode, BitVec.toNat_ofNat, hones, Nat.shiftRight_eq_div_pow, ← toNat_tensField]
  omega

theorem toNat_bcdDecode_legacy (b : Byte) :
    (bcdDecode .legacy b).toNat = (tensField b).toNat % 8 * 10 + (onesField b).toNat := by
  rw [toNat_bcdDecode, and_tensMask_legacy]

theorem toNat_bcdDecode_corrected (b : Byte) :
    (bcdDecode .corrected b).toNat = (tensField b).toNat * 10 + (onesField b).toNat := by
  rw [toNat_bcdDecode, and_tensMask_corrected, Nat.mod_eq_of_lt (tensField b).isLt]

/-- Bit 7 is the top bit of the tens field, which the legacy mask drops. -/
theorem bcdDecode_legacy_xor_bit7 (b : Byte) : bcdDecode .legacy (b ^^^ 0x80) = bcdDecode .legacy b := by
  have htens : tensField (b ^^^ 0x80) = tensField b ^^^ 8 := BitVec.extractLsb'_xor
  have hones : onesField (b ^^^ 0x80) = onesField b := BitVec.extractLsb'_xor.trans BitVec.xor_zero
  have hdrop : (tensField b ^^^ 8).toNat % 8 = (tensField b).toNat % 8 := by
    rw [BitVec.toNat_xor, Nat.xor_mod_two_pow (n := 3)]
    exact Nat.xor_zero _
  apply BitVec.eq_of_toNat_eq
  rw [toNat_bcdDecode_legacy, toNat_bcdDecode_legacy, htens, hones, hdrop]

/-! ## Decode after encode (41_bcd_codec R145, R146) -/

/-- Decoding takes the mask of v / 10 truncated to 4 bits, for every byte and in either mode. -/
theorem toNat_bcdDecode_bcdEncode (m : DecodeMode) (v : Byte) :
    (bcdDecode m (bcdEncode v)).toNat = ((v.toNat / 10 % 16) &&& tensMask m) * 10 + v.toNat % 10 := by
  have hones : v.toNat % 10 % 16 = v.toNat % 10 := Nat.mod_eq_of_lt (by omega)
  rw [toNat_bcdDecode, tensField_bcdEncode, onesField_bcdEncode, BitVec.toNat_ofNat, BitVec.toNat_ofNat, hones]

/-! ## The codec commands (41_bcd_codec R143, R144) -/

theorem exec_bcdEncode (v : Byte) (s : State) : exec (.bcdEncode v) s = .next (s.setRes (bcdEncode v)) :=
  exec_eq_next _ s

theorem exec_bcdDecode (b : Byte) (s : State) :
    exec (.bcdDecode b) s = .next (s.setRes (bcdDecode s.params.decodeMode b)) :=
  exec_eq_next _ s

/-! ## What a run is configured for (41_bcd_codec R142) -/

/-- No step of any agent changes the parameters or the environment. -/
theorem StepLeaves.configuration_eq (h : StepLeaves s t) : t.params = s.params ∧ t.env = s.env := by
  cases h with
  | command _ _ _ _ _ _ _ ht =>
    obtain ⟨henv, hparams, -⟩ := ht.environment_eq
    exact ⟨hparams, henv⟩
  | idle | resultRead | resultUnwritten | illegal | initDone | waits | startDone => exact ⟨rfl, rfl⟩
  | writeDone => simp [State.chipAfterByte]
  | readFresh | readStale | readUnlatched => simp [State.chipAfterRead]
  | stopDone => simp [State.chipAfterStop]

/-- Nor does a run. -/
theorem State.Reaches.configuration_eq (h : s.Reaches t) : t.params = s.params ∧ t.env = s.env := by
  refine h.keeps (P := fun u => u.params = s.params ∧ u.env = s.env) (fun u v hu hstep => ?_) ⟨rfl, rfl⟩
  obtain ⟨hparams, henv⟩ := hu
  obtain ⟨hparams', henv'⟩ := (step_leaves hstep).2.configuration_eq
  exact ⟨hparams'.trans hparams, henv'.trans henv⟩

end Sys2Proof.Machine
end

section
/-! SUPPORT. The statements about the codec (spec/41_bcd_codec.md). -/

open Sys2Proof Sys2Proof.Machine

/-- Settles O29: every step keeps the parameters and the environment, so a run does. -/
theorem decodeModeIsFixedForARun : Obligations.DecodeModeIsFixedForARun :=
  ⟨rfl, rfl, rfl, fun _ _ => State.Reaches.configuration_eq⟩

/-- Settles O27: the two fields of the result; below 100 both digits fit theirs. -/
theorem encodePacksDigits : Obligations.EncodePacksDigits := by
  refine ⟨fun v => ⟨toNat_bcdEncode v, tensField_bcdEncode v, onesField_bcdEncode v, fun hv => ⟨?_, ?_⟩⟩, ?_⟩
  · rw [tensField_bcdEncode, BitVec.toNat_ofNat]
    omega
  · rw [onesField_bcdEncode, BitVec.toNat_ofNat]
    omega
  · decide

/-- Settles O28: the value in each mode, bounded by the widths of the masked tens field and of the ones field. -/
theorem decodeAddsMaskedTens : Obligations.DecodeAddsMaskedTens := by
  refine ⟨fun b => ⟨toNat_bcdDecode_legacy b, toNat_bcdDecode_corrected b, bcdDecode_legacy_xor_bit7 b, ?_, ?_⟩,
    by decide⟩
  · rw [toNat_bcdDecode_legacy]
    omega
  · rw [toNat_bcdDecode_corrected]
    omega

/-- Settles O30: the command is the update of RES and RESV. -/
theorem bcdEncodeWritesResult : Obligations.BcdEncodeWritesResult :=
  ⟨fun s v => ⟨encode_bcdEncode v, exec_bcdEncode v s⟩, by decide⟩

/-- Settles O31: the command is the update of RES and RESV. -/
theorem bcdDecodeWritesResult : Obligations.BcdDecodeWritesResult :=
  ⟨fun s b => ⟨encode_bcdDecode b, exec_bcdDecode b s⟩, by decide⟩

/-- Settles O32: up to 99 the tens digit fits its field, and the legacy mask takes 8 from the digits 8 and 9. -/
theorem codecRoundTripLaw : Obligations.CodecRoundTripLaw := by
  have hlegacy (v : Byte) (hv : v.toNat ≤ 99) :
      (bcdDecode .legacy (bcdEncode v)).toNat = v.toNat / 10 % 8 * 10 + v.toNat % 10 := by
    rw [toNat_bcdDecode_bcdEncode, and_tensMask_legacy]
    omega
  refine ⟨fun v hv => ?_, fun v hlow hhigh => ⟨?_, hlegacy v hhigh⟩, fun v hv => ?_⟩
  · apply BitVec.eq_of_toNat_eq
    rw [hlegacy v (by omega)]
    omega
  · have hle : (80 : Byte) ≤ v := BitVec.le_def.2 hlow
    have hsub : (v - 80).toNat = v.toNat - 80 := BitVec.toNat_sub_of_le hle
    apply BitVec.eq_of_toNat_eq
    rw [hlegacy v hhigh, hsub]
    omega
  · apply BitVec.eq_of_toNat_eq
    rw [toNat_bcdDecode_bcdEncode, and_tensMask_corrected]
    omega

/-- Settles O33: the law of every byte, in the legacy mode. -/
theorem codecLawAboveNinetyNine : Obligations.CodecLawAboveNinetyNine :=
  ⟨fun v _ => toNat_bcdDecode_bcdEncode .legacy v, by decide⟩

/-- Settles O34: both commands answer the update of RES and RESV. -/
theorem codecNeverFaults : Obligations.CodecNeverFaults := fun s b =>
  ⟨⟨_, exec_bcdEncode b s, rfl, rfl⟩, ⟨_, exec_bcdDecode b s, rfl, rfl⟩⟩

/-- Settles O53: both commands write a result and nothing else. -/
theorem codecFrame : Obligations.CodecFrame := by
  intro v s t i hmem h
  obtain ⟨b, hexec⟩ : ∃ b, exec i s = .next (s.setRes b) := by
    rcases List.mem_pair.1 hmem with rfl | rfl
    · exact ⟨_, exec_bcdEncode v s⟩
    · exact ⟨_, exec_bcdDecode v s⟩
  rw [hexec] at h
  cases h
  exact ⟨rfl, rfl, rfl, rfl, rfl, rfl, rfl⟩

end

section
/-! SUPPORT. Which register of the reference slave a step changes (spec/42_transactions.md R166). -/

namespace Sys2Proof.Machine

variable {s t : State}

/-- A register memory that is a write to another: the register written, and every other one. -/
theorem regRead_of_eq_regWrite {m m' : List Host.Cell} {r v : Byte} (h : m' = regWrite m r v) :
    regRead m' r = v ∧ ∀ a, a ≠ r → regRead m' a = regRead m a := by
  subst h
  exact ⟨regRead_regWrite_same m r v, fun a ha => regRead_regWrite_other m v ha⟩

/-- Only the stop completion with the reference slave attached changes a register. -/
theorem StepLeaves.regs (h : StepLeaves s t) :
    t.chip.reg = s.chip.reg ∨
      s.env = .reference ∧ s.busy = .stopDelay ∧ t.chip = s.chip.afterStop (openTransaction s.trace.dropLast) := by
  cases h with
  | idle | resultRead | resultUnwritten | illegal | initDone | waits | startDone => exact .inl rfl
  | command w rest i t hb hh hd ht =>
    obtain ⟨-, -, -, hchip⟩ := ht.environment_eq
    exact .inl (by rw [hchip, State.advance_chip, State.popHost_chip])
  | writeDone =>
    rcases State.reacts_cases s (s.chip.afterByte (openTransaction s.trace)) with ⟨-, hs⟩ | ⟨-, hs⟩
    · exact .inl (by simp [State.chipAfterByte, hs, Chip.afterByte_reg])
    · exact .inl (by simp [State.chipAfterByte, hs])
  | readFresh | readStale | readUnlatched =>
    rcases State.reacts_cases s s.chip.afterRead with ⟨-, hs⟩ | ⟨-, hs⟩ <;>
      exact .inl (by simp [State.chipAfterRead, hs])
  | stopDone hb =>
    rcases State.reacts_cases s (s.chip.afterStop (openTransaction s.trace.dropLast)) with ⟨he, hs⟩ | ⟨-, hs⟩
    · exact .inr ⟨he, hb, by simp [State.chipAfterStop, hs]⟩
    · exact .inl (by simp [State.chipAfterStop, hs])

end Sys2Proof.Machine
end

section
/-! SUPPORT. What the slave does over a list of bus events, by the transaction each stands in (spec/42_transactions.md
R166). -/

namespace Sys2Proof.Machine

/-- The slave's reaction to the completion of the event `e`, where `o` is the transaction before it. -/
def Chip.afterEvent (c : Chip) (o : List BusEvent) (e : BusEvent) : Chip :=
  match e with
  | .start => c
  | .restart => c
  | .stop => c.afterStop o
  | .write _ => c.afterByte (o ++ [e])
  | .read => c.afterRead

/-- The slave after the events `es` in their order, where `o` is the transaction before them. -/
def Chip.follow (c : Chip) (o : List BusEvent) : List BusEvent → Chip
  | [] => c
  | e :: es => (c.afterEvent o e).follow (if e = .stop then [] else o ++ [e]) es

/-- No transaction is open in the phase IDLE of a well framed trace (10_state R23, 40_bus_transport R114). -/
theorem openTransaction_eq_nil {t : List BusEvent} (hframed : wellFramedFrom .idle t = true)
    (hphase : phaseOfTrace t = .idle) : openTransaction t = [] := by
  rcases List.eq_nil_or_concat t with rfl | ⟨u, e, rfl⟩
  · rfl
  rw [List.concat_eq_append] at hframed hphase ⊢
  rw [phaseOfTrace_append] at hphase
  rw [wellFramedFrom_append, Bool.and_eq_true] at hframed
  obtain ⟨-, hcell⟩ := hframed
  rw [← phaseOfTrace] at hcell
  cases e with
  | stop => rw [openTransaction_append, if_pos rfl]
  | start | restart | read => cases hphase
  | write b =>
    cases hp : phaseOfTrace u with
    | idle => rw [hp] at hcell; cases hcell
    | addr => rw [hp, phaseAfter, if_pos rfl] at hphase; split at hphase <;> cases hphase
    | wr | rd | rdDone => rw [hp] at hphase; cases hphase

/-- Events without a Stop go on with the open transaction. -/
theorem openTransaction_append_of_no_stop (t : List BusEvent) {u : List BusEvent} (h : .stop ∉ u) :
    openTransaction (t ++ u) = openTransaction t ++ u := by
  induction u generalizing t with
  | nil => rw [List.append_nil, List.append_nil]
  | cons e u ih =>
    obtain ⟨hne, hnot⟩ := List.ne_and_not_mem_of_not_mem_cons h
    rw [List.append_cons, ih _ hnot, openTransaction_append, if_neg hne.symm, ← List.append_cons]

theorem State.Inv.openTransaction_eq_nil {s : State} (h : s.Inv) (hp : s.phase = .idle) :
    openTransaction s.trace = [] :=
  Machine.openTransaction_eq_nil h.framed (h.phase_eq ▸ hp)

end Sys2Proof.Machine
end

section
/-! SUPPORT. Runs of bus commands on a responsive bus (spec/40_bus_transport.md R104 to R109,
spec/42_transactions.md R163, spec/70_reset_and_hazards.md R247), by the events they emit. -/

namespace Sys2Proof.Machine

variable {s t u : State} {e : BusEvent} {es es' : List BusEvent} {rest : List HostStep}

/-! ## The command of an event -/

/-- The bus command that emits an event. -/
def BusEvent.command : BusEvent → Instr
  | .start => .start
  | .restart => .restart
  | .stop => .stop
  | .write b => .writeByte b
  | .read => .readByte

/-- The wait the command of an event is held in. -/
def BusEvent.wait : BusEvent → Busy
  | .start => .startWait
  | .restart => .startWait
  | .stop => .stopDelay
  | .write _ => .txWait
  | .read => .rxDelay

theorem busEventOf_command (e : BusEvent) : busEventOf e.command = some (e, e.wait) := by
  cases e <;> rfl

/-- The byte that TXD holds after an event. -/
def txdAfter (b : Byte) : BusEvent → Byte
  | .write c => c
  | .start => b
  | .restart => b
  | .stop => b
  | .read => b

theorem State.loadTxd_txd (s : State) (e : BusEvent) : (s.loadTxd e).txd = txdAfter s.txd e := by
  cases e <;> rfl

/-- The host's list for the commands of `e :: es`. -/
theorem hostProgram_cons (e : BusEvent) (es : List BusEvent) :
    hostProgram ((e :: es).map BusEvent.command) = .issue (encode e.command) :: hostProgram (es.map BusEvent.command) :=
  rfl

/-! ## Before and after a part of the run -/

/-- The host is about to issue the commands of the events `es`, well framed from here, on a responsive bus. -/
structure State.Awaits (s : State) (es : List BusEvent) (rest : List HostStep) : Prop where
  init : s.init = true
  busy : s.busy = .none
  fault : s.fault = none
  responsive : s.BusResponsive
  host : s.host = hostProgram (es.map BusEvent.command) ++ rest
  framed : wellFramedFrom s.phase es = true

/-- `t` is reached from `s` by commands that emit `es` and complete, none of them a READ_BYTE. -/
structure State.Transmits (s : State) (es : List BusEvent) (t : State) : Prop where
  reaches : s.Reaches t
  hpc : t.hpc = s.hpc + es.length
  phase : t.phase = es.foldl phaseAfter s.phase
  trace : t.trace = s.trace ++ es
  txd : t.txd = es.foldl txdAfter s.txd
  results : s.SameResults t
  chip : s.env = .reference → t.chip = s.chip.follow (openTransaction s.trace) es

theorem State.Transmits.refl (s : State) : s.Transmits [] s :=
  ⟨.refl s, rfl, rfl, (List.append_nil _).symm, rfl, ⟨rfl, rfl, rfl, rfl⟩, fun _ => rfl⟩

theorem State.Transmits.env_eq (h : s.Transmits es t) : t.env = s.env := h.reaches.configuration_eq.2

theorem State.Transmits.params_eq (h : s.Transmits es t) : t.params = s.params := h.reaches.configuration_eq.1

theorem State.Transmits.cons (h : s.Transmits [e] t) (h' : t.Transmits es u) : s.Transmits (e :: es) u where
  reaches := h.reaches.trans h'.reaches
  hpc := by rw [h'.hpc, h.hpc, List.length_singleton, List.length_cons]; omega
  phase := by rw [h'.phase, h.phase]; rfl
  trace := by rw [h'.trace, h.trace, List.append_assoc]; rfl
  txd := by rw [h'.txd, h.txd]; rfl
  results := ⟨h'.results.rxd.trans h.results.rxd, h'.results.rxv.trans h.results.rxv,
    h'.results.res.trans h.results.res, h'.results.resv.trans h.results.resv⟩
  chip he := by
    rw [h'.chip (h.env_eq.trans he), h.chip he, h.trace, openTransaction_append]
    rfl

/-- The first event of an awaited list stands where the framing table allows it, and the others after it. -/
theorem State.Awaits.framed_cons (h : s.Awaits (e :: es) rest) :
    (framing s.phase e).isSome = true ∧ wellFramedFrom (phaseAfter s.phase e) es = true := by
  simpa [wellFramedFrom] using h.framed

/-! ## The issue step -/

/-- The state the command of `e` leaves when it is issued, with `rest` left on the host's list. -/
abbrev State.emitted (s : State) (e : BusEvent) (rest : List HostStep) : State :=
  State.issued { s with host := rest, hpc := s.hpc + 1 } e (phaseAfter s.phase e) e.wait

theorem State.Awaits.step_eq (h : s.Awaits (e :: es) rest) :
    step s = .next (s.emitted e (hostProgram (es.map BusEvent.command) ++ rest)) := by
  obtain ⟨p, hp⟩ := Option.isSome_iff_exists.1 h.framed_cons.1
  rw [step_of_legal h.fault h.busy (h.host.trans (by rw [hostProgram_cons, List.cons_append])) (decode_encode _),
    (exec_issues (s := { s with host := _, hpc := s.hpc + 1 }) (busEventOf_command e) h.init hp).1, State.emitted,
    ← framing_eq_phaseAfter hp]

/-! ## The completion -/

/-- Whether the bus is responsive is a matter of the environment alone. -/
theorem State.BusResponsive.of_env_eq (h : s.BusResponsive) (he : t.env = s.env) : t.BusResponsive := by
  unfold State.BusResponsive at h ⊢
  rwa [he]

/-- The reference slave is a responsive bus. -/
theorem State.responsive_of_reference (he : s.env = .reference) : s.BusResponsive := by
  simp only [State.BusResponsive, he]

/-- A wait that the bus lifts after `k` draws: the first signal is reached. -/
theorem reaches_first_signal (hf : s.fault = none) (hb : s.busy = .startWait ∨ s.busy = .txWait) {k : Nat}
    (hk : ({ s with draws := s.draws + k } : State).busCompletes = true) :
    ∃ n, s.Reaches { s with draws := n } ∧ ({ s with draws := n } : State).busCompletes = true := by
  induction k generalizing s with
  | zero => exact ⟨s.draws, .refl s, hk⟩
  | succ k ih =>
    cases hc : s.busCompletes with
    | true => exact ⟨s.draws, .refl s, hc⟩
    | false =>
      have hk' : ({ s.drawn with draws := s.drawn.draws + k } : State).busCompletes = true := by
        rw [State.drawn_draws, Nat.add_right_comm]
        exact hk
      obtain ⟨n, hn, hsignal⟩ := ih (s := s.drawn) hf hb hk'
      exact ⟨n, (State.Reaches.of_step (step_of_unsignalled hf hb hc)).trans hn, hsignal⟩

/-- A responsive bus signals at some later draw. -/
theorem State.BusResponsive.exists_signal (h : s.BusResponsive) :
    ∃ k, ({ s with draws := s.draws + k } : State).busCompletes = true := by
  cases he : s.env with
  | unconstrained =>
    simp only [State.BusResponsive, he] at h
    obtain ⟨m, hle, hm⟩ := h s.draws
    obtain ⟨k, rfl⟩ := Nat.exists_eq_add_of_le hle
    exact ⟨k, hm⟩
  | silent => simp only [State.BusResponsive, he] at h
  | reference => exact ⟨0, rfl⟩

/-- On a responsive bus a signal comes. -/
theorem State.BusResponsive.reaches_signal (h : s.BusResponsive) (hf : s.fault = none)
    (hb : s.busy = .startWait ∨ s.busy = .txWait) :
    ∃ n, s.Reaches { s with draws := n } ∧ ({ s with draws := n } : State).busCompletes = true := by
  obtain ⟨k, hk⟩ := h.exists_signal
  exact reaches_first_signal hf hb hk

/-- The slave after the completion of the event `e` in the transaction `o`: it reacts only where it is attached. -/
def State.chipAfter (s : State) (o : List BusEvent) (e : BusEvent) : Chip :=
  if s.env = .reference then s.chip.afterEvent o e else s.chip

theorem State.chipAfterByte_eq {tr : List BusEvent} {b : Byte} (htr : s.trace = tr ++ [.write b]) :
    s.chipAfterByte = s.setChip (s.chipAfter (openTransaction tr) (.write b)) := by
  rw [State.chipAfterByte, htr, openTransaction_append, State.reacts_eq]
  rfl

theorem State.chipAfterStop_eq {tr : List BusEvent} (htr : s.trace = tr ++ [.stop]) :
    s.chipAfterStop = s.setChip (s.chipAfter (openTransaction tr) .stop) := by
  rw [State.chipAfterStop, htr, List.dropLast_concat, State.reacts_eq]
  rfl

/-- The state once the wait of the event `e` has ended, with `n` draws made: the host is free, and the reference slave
has taken its part in the transaction `o`. -/
abbrev State.completed (s : State) (o : List BusEvent) (e : BusEvent) (n : Nat) : State :=
  { s with busy := .none, draws := n, chip := s.chipAfter o e }

/-- On a responsive bus the wait of every event but a Read ends. -/
theorem State.BusResponsive.completes (h : s.BusResponsive) (hf : s.fault = none) (hb : s.busy = e.wait)
    (hread : e ≠ .read) {tr : List BusEvent} (htr : s.trace = tr ++ [e]) :
    ∃ n, s.Reaches (s.completed (openTransaction tr) e n) := by
  cases e with
  | read => exact absurd rfl hread
  | start | restart =>
    obtain ⟨n, hn, hc⟩ := h.reaches_signal hf (.inl hb)
    refine ⟨n + 1, hn.trans (.of_step ?_)⟩
    rw [step_of_startWait (s := { s with draws := n }) hf hb, waitStep, if_pos hc, State.completed, State.chipAfter,
      Chip.afterEvent, ite_self]
    rfl
  | write b =>
    obtain ⟨n, hn, hc⟩ := h.reaches_signal hf (.inr hb)
    refine ⟨n + 1, hn.trans (.of_step ?_)⟩
    rw [step_of_txWait (s := { s with draws := n }) hf hb, waitStep, if_pos hc,
      State.chipAfterByte_eq (s := { s with draws := n }) htr]
    rfl
  | stop =>
    refine ⟨s.draws, .of_step ?_⟩
    rw [step_of_stopDelay hf hb, State.chipAfterStop_eq htr]
    rfl

/-! ## Runs -/

/-- The host awaits the rest of the events once the command of the first one has completed. -/
theorem State.Awaits.tail (h : s.Awaits (e :: es) rest) (ht : t.init = s.init ∧ t.busy = .none ∧ t.fault = none)
    (henv : t.env = s.env) (hphase : t.phase = phaseAfter s.phase e)
    (hhost : t.host = hostProgram (es.map BusEvent.command) ++ rest) : t.Awaits es rest := by
  obtain ⟨hinit, hbusy, hfault⟩ := ht
  exact ⟨hinit.trans h.init, hbusy, hfault, h.responsive.of_env_eq henv, hhost, hphase ▸ h.framed_cons.2⟩

/-- What a command has done once its wait has ended as `completed` says. -/
theorem State.transmits_of_reaches {n : Nat}
    (h : s.Reaches ((s.emitted e rest).completed (openTransaction s.trace) e n)) :
    s.Transmits [e] ((s.emitted e rest).completed (openTransaction s.trace) e n) where
  reaches := h
  hpc := by simp
  phase := by simp
  trace := by simp
  txd := by simp [State.loadTxd_txd]
  results := by constructor <;> simp
  chip he := by simp [State.chipAfter, Chip.follow, he]

/-- A command other than READ_BYTE runs to its completion. -/
theorem State.Awaits.transmits_one (h : s.Awaits (e :: es) rest) (hread : e ≠ .read) :
    ∃ t, s.Transmits [e] t ∧ t.Awaits es rest := by
  have hresponsive : (s.emitted e (hostProgram (es.map BusEvent.command) ++ rest)).BusResponsive :=
    h.responsive.of_env_eq (by simp)
  obtain ⟨n, hn⟩ := hresponsive.completes (e := e) (tr := s.trace) (by simp [h.fault]) (by simp) hread (by simp)
  exact ⟨_, State.transmits_of_reaches ((State.Reaches.of_step h.step_eq).trans hn),
    h.tail ⟨by simp, rfl, by simp [h.fault]⟩ (by simp) (by simp) (by simp)⟩

/-- Commands other than READ_BYTE run to their end. -/
theorem State.Awaits.transmits (h : s.Awaits (es ++ es') rest) (hread : .read ∉ es) :
    ∃ t, s.Transmits es t ∧ t.Awaits es' rest := by
  induction es generalizing s with
  | nil => exact ⟨s, .refl s, h⟩
  | cons e es ih =>
    obtain ⟨hne, hnot⟩ := List.ne_and_not_mem_of_not_mem_cons hread
    obtain ⟨t, hst, ht⟩ := State.Awaits.transmits_one h hne.symm
    obtain ⟨u, htu, hu⟩ := ih ht hnot
    exact ⟨u, hst.cons htu, hu⟩

end Sys2Proof.Machine
end

section
/-! SUPPORT. The read completion in a run, and the two field transactions as parts of a run (spec/40_bus_transport.md
R110, R111, spec/42_transactions.md R160, R161, R166). -/

namespace Sys2Proof.Machine

variable {s t : State} {rest : List HostStep}

/-! ## The read completion -/

section
variable (b : Byte) (ready late : Bool) (s : State)

/-- The read completion does not depend on the slave's state once the byte is drawn. -/
theorem completeRead_setChip (c : Chip) :
    completeRead b ready late (s.setChip c) = (completeRead b ready late s).setChip c := by
  simp only [completeRead, apply_ite (State.setChip · c)]
  cases late <;> rfl

/-- A read completion frees the host with a result, or it faults: only where no receive was ever latched. -/
theorem completeRead_frees_or_faults :
    ((completeRead b ready late s).fault = s.fault ∧ (completeRead b ready late s).busy = .none ∧
      (completeRead b ready late s).resv = true) ∨
    (completeRead b ready late s = s.raise .unlatchedRead ∧ s.rxv = false ∧ s.params.rxDelaySufficient = false) := by
  rcases completeRead_cases b ready late s with ⟨-, hs⟩ | ⟨-, -, hs⟩ | ⟨hr, hv, hs⟩ <;> rw [hs]
  · exact .inl ⟨rfl, rfl, rfl⟩
  · exact .inl (by simp)
  · exact .inr ⟨rfl, hv, (Bool.or_eq_false_iff.1 hr).1⟩

end

/-- The state a read completion leaves, with the draws made and the slave's part taken. -/
def State.readDone (s : State) : State :=
  ((completeRead s.rxByteDraw s.rxReadyDraw s.rxLateDraw s).setChip (s.chipAfter [] .read)).drawn

/-! The read completion leaves the transaction, the host and the environment alone. -/

@[simp] theorem State.readDone_init (s : State) : s.readDone.init = s.init := by
  unfold State.readDone completeRead; split_ifs <;> simp
@[simp] theorem State.readDone_phase (s : State) : s.readDone.phase = s.phase := by
  unfold State.readDone completeRead; split_ifs <;> simp
@[simp] theorem State.readDone_txd (s : State) : s.readDone.txd = s.txd := by
  unfold State.readDone completeRead; split_ifs <;> simp
@[simp] theorem State.readDone_trace (s : State) : s.readDone.trace = s.trace := by
  unfold State.readDone completeRead; split_ifs <;> simp
@[simp] theorem State.readDone_hpc (s : State) : s.readDone.hpc = s.hpc := by
  unfold State.readDone completeRead; split_ifs <;> simp
@[simp] theorem State.readDone_host (s : State) : s.readDone.host = s.host := by
  unfold State.readDone completeRead; split_ifs <;> simp
@[simp] theorem State.readDone_env (s : State) : s.readDone.env = s.env := by
  unfold State.readDone completeRead; split_ifs <;> simp

theorem step_eq_readDone (hf : s.fault = none) (hb : s.busy = .rxDelay) : step s = .next s.readDone := by
  rw [step_of_rxDelay hf hb, State.chipAfterRead, State.reacts_eq, completeRead_setChip]
  rfl

/-- With a sufficient receive delay the byte the slave drives is latched and returned. -/
theorem State.readDone_of_sufficient (h : s.params.rxDelaySufficient = true) :
    s.readDone =
      ((((s.latch s.rxByteDraw).setRes s.rxByteDraw).setBusy .none).setChip (s.chipAfter [] .read)).drawn := by
  rw [State.readDone, completeRead, h, Bool.true_or, if_pos rfl]

/-! ## READ_FIELD -/

/-- The events of READ_FIELD before its byte read: the register addressed, then the chip addressed for reading. -/
def readFieldAddress (r : Byte) : List BusEvent := [.start, .write devW, .write r, .restart, .write devR]

/-- The state in which READ_FIELD waits for its byte, when `s` is the state after its first five commands. -/
abbrev State.readIssued (s : State) (rest : List HostStep) : State := s.emitted .read (.issue (encode .stop) :: rest)

/-- READ_FIELD runs to its read completion; after that it runs to its end, or the completion has faulted. -/
theorem State.Awaits.runs_readField {r : Byte} (h : s.Awaits (readFieldEvents r) rest) :
    ∃ w, s.Transmits (readFieldAddress r) w ∧ w.Reaches (w.readIssued rest) ∧
      (w.readIssued rest).Reaches (w.readIssued rest).readDone ∧
      ((w.readIssued rest).readDone.resv = true ∧
          (∃ t, (w.readIssued rest).readDone.Transmits [.stop] t ∧ t.Awaits [] rest) ∨
        (w.readIssued rest).readDone.fault = some .unlatchedRead ∧ s.rxv = false ∧
          s.params.rxDelaySufficient = false) := by
  obtain ⟨w, hsw, hw⟩ := State.Awaits.transmits (es := readFieldAddress r) (es' := [.read, .stop]) h
    (by simp [readFieldAddress])
  have hfault : (w.readIssued rest).fault = none := (State.issued_fault ..).trans hw.fault
  refine ⟨w, hsw, .of_step hw.step_eq, .of_step (step_eq_readDone hfault rfl), ?_⟩
  rcases completeRead_frees_or_faults (w.readIssued rest).rxByteDraw (w.readIssued rest).rxReadyDraw
    (w.readIssued rest).rxLateDraw (w.readIssued rest) with ⟨hf, hb, hv⟩ | ⟨hraise, hv, hs⟩
  · have hstop : (w.readIssued rest).readDone.Awaits [.stop] rest :=
      hw.tail ⟨by simp, hb, hf.trans hfault⟩ (by simp) (by simp) (by simp [hostProgram, BusEvent.command])
    exact .inl ⟨hv, hstop.transmits_one nofun⟩
  · refine .inr ⟨?_, hsw.results.rxv ▸ hv, hsw.params_eq ▸ hs⟩
    simp [State.readDone, hraise, hw.fault]

/-! ## The slave's part -/

/-- WRITE_FIELD stores its byte, where the chip has no change of its own pending. -/
theorem Chip.follow_writeFieldEvents_reg (c : Chip) (r v : Byte) (h : c.clock = []) :
    (c.follow [] (writeFieldEvents r v)).reg = regWrite c.reg r v := by
  simp [writeFieldEvents, Chip.follow, Chip.afterEvent, Chip.afterByte, Chip.afterStop, Chip.store, Chip.tick, h]

/-- The addressed part of READ_FIELD sets the pointer. -/
theorem Chip.follow_readFieldAddress (c : Chip) (r : Byte) :
    c.follow [] (readFieldAddress r) = { c with ptr := some r } := by
  simp [readFieldAddress, Chip.follow, Chip.afterEvent, Chip.afterByte]

/-- The register that the slave drives where the pointer has been set by READ_FIELD. -/
theorem Chip.readByte?_readFieldAddress (c : Chip) (r : Byte) :
    ({ c with ptr := some r } : Chip).readByte? (readFieldAddress r ++ [.read]) = some (regRead c.reg r) := by
  simp [readFieldAddress, Chip.readByte?]

theorem State.rxByteDraw_of_readByte {b : Byte} (he : s.env = .reference)
    (h : s.chip.readByte? (openTransaction s.trace) = some b) : s.rxByteDraw = b := by
  simp only [State.rxByteDraw, he, h, Option.getD_some]

section
variable {w : State} {r : Byte} (hsw : s.Transmits (readFieldAddress r) w) (he : s.env = .reference)
  (hopen : openTransaction s.trace = [])
include hsw hopen

/-- The open transaction while READ_FIELD waits for its byte. -/
theorem State.Transmits.openTransaction_readIssued :
    openTransaction (w.readIssued rest).trace = readFieldAddress r ++ [.read] := by
  have htrace : (w.readIssued rest).trace = s.trace ++ (readFieldAddress r ++ [.read]) := by
    rw [State.readIssued, State.issued_trace, hsw.trace, List.append_assoc]
  rw [htrace, openTransaction_append_of_no_stop _ (by simp [readFieldAddress]), hopen, List.nil_append]

include he

/-- The byte the slave drives for READ_FIELD is the register it names. -/
theorem State.Transmits.rxByteDraw_readIssued : (w.readIssued rest).rxByteDraw = regRead s.chip.reg r := by
  refine State.rxByteDraw_of_readByte (hsw.env_eq.trans he) ?_
  have hchip : (w.readIssued rest).chip = { s.chip with ptr := some r } := by
    rw [State.readIssued, State.issued_chip, hsw.chip he, hopen, Chip.follow_readFieldAddress]
  rw [hchip, hsw.openTransaction_readIssued hopen, Chip.readByte?_readFieldAddress]

/-- The stop of READ_FIELD ends no addressed write, so the registers stay. -/
theorem State.Transmits.reg_of_stop (hclock : s.chip.clock = [])
    (hstop : (w.readIssued rest).readDone.Transmits [.stop] t) : t.chip.reg = s.chip.reg := by
  have henv : (w.readIssued rest).env = .reference := hsw.env_eq.trans he
  have hchip : (w.readIssued rest).readDone.chip = { s.chip with ptr := none } := by
    rw [State.readDone, State.drawn_chip, State.setChip_chip, State.chipAfter, if_pos henv, State.readIssued,
      State.issued_chip, hsw.chip he, hopen, Chip.follow_readFieldAddress]
    rfl
  have hlast := hstop.chip ((State.readDone_env _).trans henv)
  rw [hchip, State.readDone_trace, hsw.openTransaction_readIssued hopen, Chip.follow, Chip.follow, Chip.afterEvent]
    at hlast
  rcases Chip.afterStop_regs { s.chip with ptr := none } (readFieldAddress r ++ [.read]) hclock with
    hsame | ⟨_, _, hwrite, -⟩
  · rw [hlast, hsame]
  · cases hwrite

end

end Sys2Proof.Machine
end

section
/-! SUPPORT. The statements about the field transactions (spec/42_transactions.md). -/

open Sys2Proof Sys2Proof.Machine

/-- Settles O60: the stop completion is the only step that touches the registers, and it stores at most one byte. -/
theorem registersChangeOnlyByAddressedWrite : Obligations.RegistersChangeOnlyByAddressedWrite := by
  intro s t hclock h
  rcases (step_leaves h).2.regs with hsame | ⟨he, hb, hchip⟩
  · exact .inl fun a => by rw [hsame]
  · rcases s.chip.afterStop_regs (openTransaction s.trace.dropLast) hclock with hsame | ⟨r, v, hopen, hreg⟩
    · exact .inl fun a => by rw [hchip, hsame]
    · exact .inr ⟨r, v, he, hb, hopen, regRead_of_eq_regWrite (hchip ▸ hreg)⟩

/-- Settles O55: five commands that emit no Read run to their end. -/
theorem writeFieldRunsToItsEnd : Obligations.WriteFieldRunsToItsEnd := by
  refine ⟨fun _ _ => rfl, fun r v => (fieldSequencesExpand r v).2, fun s r v rest hi hp hb hf hh hr => ?_⟩
  have hstart : s.Awaits (writeFieldEvents r v ++ []) rest := ⟨hi, hb, hf, hr, hh, hp ▸ rfl⟩
  obtain ⟨t, hst, ht⟩ := hstart.transmits (by simp [writeFieldEvents])
  refine ⟨t, hst.reaches, ht.fault, ht.host, hst.hpc, ?_, ht.busy, ht.init, hst.trace, hst.txd, hst.results.res,
    hst.results.resv, hst.results.rxd, hst.results.rxv⟩
  rw [hst.phase, hp]
  rfl

/-- Settles O56: no transaction is open at the start, so the slave sees the five events of an addressed write. -/
theorem referenceSlaveStoresField : Obligations.ReferenceSlaveStoresField := by
  intro s r v rest hinv hi hp hb hf he hclock hh
  have hstart : s.Awaits (writeFieldEvents r v ++ []) rest :=
    ⟨hi, hb, hf, State.responsive_of_reference he, hh, hp ▸ rfl⟩
  obtain ⟨t, hst, ht⟩ := hstart.transmits (by simp [writeFieldEvents])
  have hreg : t.chip.reg = regWrite s.chip.reg r v := by
    rw [hst.chip he, hinv.openTransaction_eq_nil hp, Chip.follow_writeFieldEvents_reg _ r v hclock]
  exact ⟨t, hst.reaches, ht.host, ht.busy, ht.fault, regRead_of_eq_regWrite hreg⟩

/-- Settles O54: the run to the read completion, then its two outcomes. -/
theorem readFieldRunsToItsEnd : Obligations.ReadFieldRunsToItsEnd := by
  refine ⟨fun _ => rfl, fun r => (fieldSequencesExpand r 0).1, fun s r rest hi hp hb hf hh hr => ?_⟩
  have hstart : s.Awaits (readFieldEvents r) rest := ⟨hi, hb, hf, hr, hh, hp ▸ rfl⟩
  obtain ⟨w, hsw, hissue, hread, hend⟩ := hstart.runs_readField
  have htrace : (w.readIssued rest).trace = s.trace ++ (readFieldEvents r).take 6 := by
    simp [hsw.trace, readFieldAddress, readFieldEvents]
  rcases hend with ⟨hv, t, hstop, ht⟩ | ⟨hfault, hv, hs⟩
  · refine ⟨w.readIssued rest, t, hsw.reaches.trans hissue, hread.trans hstop.reaches, .inl ⟨ht.fault, ht.host, ?_, ?_,
      ht.busy, ht.init, ?_, ?_, ?_, rfl, htrace, hstop.results.res⟩⟩
    · simp [hstop.hpc, hsw.hpc, readFieldAddress]
    · rw [hstop.phase]
      rfl
    · simp [hstop.trace, hsw.trace, readFieldAddress, readFieldEvents]
    · simp [hstop.txd, State.loadTxd_txd, hsw.txd, readFieldAddress, txdAfter]
    · rw [hstop.results.resv, hv]
  · refine ⟨_, _, hsw.reaches.trans hissue, hread, .inr ⟨hfault, hv, hs, ?_, ?_⟩⟩
    · simp [hsw.hpc, readFieldAddress]
    · rw [State.readDone_trace, htrace]

/-- Settles O57: no transaction is open at the start, so the slave drives the register the pointer was set to, and the
stop ends no addressed write. -/
theorem referenceSlaveReturnsField : Obligations.ReferenceSlaveReturnsField := by
  intro s r b rest hinv hi hp hb hf he hsuff hclock hreg hh
  have hstart : s.Awaits (readFieldEvents r) rest := ⟨hi, hb, hf, State.responsive_of_reference he, hh, hp ▸ rfl⟩
  have hopen := hinv.openTransaction_eq_nil hp
  obtain ⟨w, hsw, hissue, hread, ⟨-, t, hstop, ht⟩ | ⟨-, -, hs⟩⟩ := hstart.runs_readField
  · have hbyte : (w.readIssued rest).rxByteDraw = b := (hsw.rxByteDraw_readIssued he hopen).trans hreg
    have hdone := State.readDone_of_sufficient (s := w.readIssued rest) (hsw.params_eq ▸ hsuff)
    refine ⟨t, hsw.reaches.trans (hissue.trans (hread.trans hstop.reaches)), ht.host, ht.busy, ht.fault, ?_, ?_, ?_, ?_,
      fun a => by rw [hsw.reg_of_stop he hopen hclock hstop]⟩
    · rw [hstop.results.res, hdone]
      exact hbyte
    · rw [hstop.results.resv, hdone]
      rfl
    · rw [hstop.results.rxd, hdone]
      exact hbyte
    · rw [hstop.results.rxv, hdone]
      rfl
  · cases hsuff.symm.trans hs

end

section
/-! SUPPORT. Which steps raise a fault and what each leaves (spec/60_exceptions.md R202 to R204), and the host's result
read (R213). -/

namespace Sys2Proof.Machine

variable {s t : State} {i : Instr} {f : Fault}

/-! ## A command that raises a fault -/

/-- Where none was held, the fault found after raising one is that one, and it is all that has been written
(60_exceptions R202). -/
theorem State.raise_eq_of_fault {g : Fault} (hf : s.fault = none) (ht : (s.raise g).fault = some f) :
    g = f ∧ s.raise g = { s with fault := some f } := by
  rw [State.raise_of_no_fault g hf] at ht ⊢
  cases ht
  exact ⟨rfl, rfl⟩

/-- The faults a legal command raises, each with the check that fails (60_exceptions R203). -/
inductive CommandRaises (i : Instr) (s : State) : Fault → Prop where
  | notInitialized (e : BusEvent) (w : Busy) (he : busEventOf i = some (e, w)) (h0 : s.init = false) :
      CommandRaises i s .notInitialized
  | reinit (hi : i = .init) (h1 : s.init = true) : CommandRaises i s .reinit
  | framing (e : BusEvent) (w : Busy) (he : busEventOf i = some (e, w)) (h1 : s.init = true)
      (hp : framing s.phase e = none) : CommandRaises i s .framing

/-- A command that leaves a fault has failed one of its checks and has written nothing else (60_exceptions R204). -/
theorem CommandLeaves.raises (h : CommandLeaves i s t) (hf : s.fault = none) (ht : t.fault = some f) :
    CommandRaises i s f ∧ t = { s with fault := some f } := by
  cases h with
  | reinit hi h1 =>
    obtain ⟨rfl, hs⟩ := State.raise_eq_of_fault hf ht
    exact ⟨.reinit hi h1, hs⟩
  | uninitialized e w he h0 =>
    obtain ⟨rfl, hs⟩ := State.raise_eq_of_fault hf ht
    exact ⟨.notInitialized e w he h0, hs⟩
  | misframed e w he h1 hp =>
    obtain ⟨rfl, hs⟩ := State.raise_eq_of_fault hf ht
    exact ⟨.framing e w he h1 hp, hs⟩
  | configured | issued | result => simp [hf] at ht

/-- FRAMING is the last check: only a bus command after INIT reaches it (60_exceptions R203). -/
theorem CommandRaises.init_of_framing (h : CommandRaises i s .framing) : s.init = true ∧ i ≠ .init := by
  cases h with
  | framing e w he h1 => exact ⟨h1, by rintro rfl; cases he⟩

/-! ## A step that raises a fault -/

/-- The steps that raise a fault, with the state each leaves. -/
inductive StepRaises (s : State) : Fault → State → Prop where
  | illegal (w : CommandWord) (rest : List HostStep) (why : Illegal) (hb : s.busy = .none)
      (hh : s.host = .issue w :: rest) (hd : decode w = .illegal why) :
      StepRaises s .illegalCommand { s.popHost.advance with fault := some .illegalCommand }
  | command (w : CommandWord) (rest : List HostStep) (i : Instr) (f : Fault) (hb : s.busy = .none)
      (hh : s.host = .issue w :: rest) (hd : decode w = .legal i) (hr : CommandRaises i s.popHost.advance f) :
      StepRaises s f { s.popHost.advance with fault := some f }
  | resultUnwritten (rest : List HostStep) (hb : s.busy = .none) (hh : s.host = .readResult :: rest)
      (hv : s.resv = false) : StepRaises s .resUnwritten { s.popHost with fault := some .resUnwritten }
  | unlatchedRead (hb : s.busy = .rxDelay) (hr : (s.params.rxDelaySufficient || s.rxReadyDraw) = false)
      (hv : s.rxv = false) :
      StepRaises s .unlatchedRead { (s.setChip s.chipAfterRead.chip).drawn with fault := some .unlatchedRead }

theorem StepLeaves.raises (h : StepLeaves s t) (hf : s.fault = none) (ht : t.fault = some f) : StepRaises s f t := by
  cases h with
  | illegal w rest why hb hh hd =>
    obtain ⟨rfl, hs⟩ := State.raise_eq_of_fault (s := s.popHost.advance) hf ht
    exact hs ▸ .illegal w rest why hb hh hd
  | command w rest i t hb hh hd hl =>
    obtain ⟨hr, rfl⟩ := hl.raises hf ht
    exact .command w rest i f hb hh hd hr
  | resultUnwritten rest hb hh hv =>
    obtain ⟨rfl, hs⟩ := State.raise_eq_of_fault (s := s.popHost) hf ht
    exact hs ▸ .resultUnwritten rest hb hh hv
  | readUnlatched hb hr hv =>
    have hchip : s.chipAfterRead = s.setChip s.chipAfterRead.chip := State.reacts_eq_setChip s _
    rw [hchip] at ht ⊢
    obtain ⟨rfl, hs⟩ := State.raise_eq_of_fault (s := s.setChip s.chipAfterRead.chip) hf ht
    rw [hs]
    exact .unlatchedRead hb hr hv
  | idle | resultRead | initDone | waits | startDone => cases hf.symm.trans ht
  | writeDone => simp [State.chipAfterByte, hf] at ht
  | readFresh | readStale => simp [State.chipAfterRead, hf] at ht
  | stopDone => simp [State.chipAfterStop, hf] at ht

theorem step_raises (h : step s = .next t) (ht : t.fault = some f) : StepRaises s f t := by
  obtain ⟨hf, hl⟩ := step_leaves h
  exact hl.raises hf ht

/-- Only a read completion raises UNLATCHED_READ (60_exceptions R203). -/
theorem StepRaises.busy_of_unlatchedRead (h : StepRaises s .unlatchedRead t) : s.busy = .rxDelay := by
  cases h with
  | unlatchedRead hb => exact hb
  | command _ _ _ _ _ _ _ hr => cases hr

/-- Only the host's result read raises RES_UNWRITTEN (60_exceptions R203). -/
theorem StepRaises.host_of_resUnwritten (h : StepRaises s .resUnwritten t) :
    s.busy = .none ∧ ∃ rest, s.host = .readResult :: rest := by
  cases h with
  | resultUnwritten rest hb hh => exact ⟨hb, rest, hh⟩
  | command _ _ _ _ _ _ _ hr => cases hr

/-- Of the block a faulting step writes FAULT, and HPC where it issues a word (60_exceptions R204). -/
theorem StepRaises.writes (h : StepRaises s f t) :
    t = { s with fault := some f, hpc := t.hpc, host := t.host, chip := t.chip, draws := t.draws } ∧
    (t.hpc = s.hpc ∨ t.hpc = s.hpc + 1 ∧ s.busy = .none ∧ ∃ w rest, s.host = .issue w :: rest) := by
  cases h with
  | illegal w rest _ hb hh | command w rest _ _ hb hh => exact ⟨rfl, .inr ⟨rfl, hb, w, rest, hh⟩⟩
  | resultUnwritten | unlatchedRead => exact ⟨rfl, .inl rfl⟩

/-- A stop completion, where the slave stores, raises no fault. -/
theorem StepRaises.busy_ne_stopDelay (h : StepRaises s f t) : s.busy ≠ .stopDelay := by
  cases h with
  | illegal _ _ _ hb | command _ _ _ _ hb | resultUnwritten _ hb | unlatchedRead hb => simp [hb]

/-! ## The host's result read -/

theorem readResult_of_written (h : s.resv = true) : readResult s = s := by
  simp [readResult, State.resultRead, h]

theorem readResult_of_unwritten (h : s.resv = false) : readResult s = s.raise .resUnwritten := by
  simp [readResult, State.resultRead, h]

/-- The host's next step is a result read: it leaves the list and is taken (60_exceptions R213). -/
theorem step_of_readResult {rest : List HostStep} (hf : s.fault = none) (hb : s.busy = .none)
    (hh : s.host = .readResult :: rest) : step s = .next (readResult { s with host := rest }) := by
  rw [step_of_idle hf hb, hostStep, hh]
  dsimp only
  rw [State.popHost, hh, List.tail_cons]

/-! ## The FAULT port -/

/-- Code 0 is no fault's, so the port tells whether there is one (60_exceptions R201, 10_state R34). -/
theorem Fault.code_ne_zero (f : Fault) : f.code ≠ 0 := by
  cases f <;> decide

theorem State.faultPort_of_no_fault (h : s.fault = none) : s.faultPort = 0 := by
  rw [State.faultPort, h]

theorem State.faultPort_of_fault (h : s.fault = some f) : s.faultPort = f.code := by
  rw [State.faultPort, h]

end Sys2Proof.Machine
end

section
/-! SUPPORT. The statements about faults and the host's result read (spec/60_exceptions.md). -/

open Sys2Proof Sys2Proof.Machine

/-- Settles O35: no fault's code is 0. -/
theorem faultCodesShowOnPort : Obligations.FaultCodesShowOnPort := by
  refine ⟨rfl, rfl, rfl, rfl, rfl, rfl, fun s => ⟨⟨fun hport => ?_, State.faultPort_of_no_fault⟩,
    fun f => State.faultPort_of_fault⟩⟩
  cases hf : s.fault with
  | none => rfl
  | some f => exact absurd ((State.faultPort_of_fault hf).symm.trans hport) f.code_ne_zero

/-- Settles O10: the read is a host step, so it is taken only with BUSY = NONE; it asks RESV. -/
theorem resultReadReturnsRes : Obligations.ResultReadReturnsRes := by
  intro s rest hh
  refine ⟨fun hf hb hv => ⟨if_pos hv, ?_⟩, fun hf hb hv => ⟨if_neg (by simp [hv]), ?_⟩, fun t h hne => ?_⟩
  · rw [step_of_readResult hf hb hh, readResult_of_written (s := { s with host := rest }) hv]
  · rw [step_of_readResult hf hb hh, readResult_of_unwritten (s := { s with host := rest }) hv,
      State.raise_of_no_fault (s := { s with host := rest }) _ hf]
  · have hb : s.busy = .none := by
      by_contra hb
      obtain ⟨hsame, -⟩ := hostHasNoStepWhileBusy s hb t h
      exact hne hsame
    exact ⟨(step_leaves h).1, hb⟩

/-- Settles O36: the first fault stays, and a step that finds it answers it. -/
theorem faultFreezesTheMachine : Obligations.FaultFreezesTheMachine := by
  refine fun s f => ⟨State.raise_of_no_fault f, fun g hg => ⟨State.raise_of_fault f hg, ?_, runFor_of_fault hg⟩⟩
  rw [State.runEnded, hg, Option.isNone_some, Bool.and_false]

/-- Settles O37: each fault with the check, or the agent, it comes from. -/
theorem faultChecksAreOrdered : Obligations.FaultChecksAreOrdered := by
  refine fun s hf => ⟨fun w why hd => ?_, fun h0 b i hmem => ?_, fun h1 => ?_, fun i t h ht => ?_, fun hb t h ht => ?_,
    fun t h ht => ?_⟩
  · rw [issue_of_illegal s hd, State.raise_of_no_fault (s := s.advance) _ hf, State.advance]
  · obtain ⟨e, w, he⟩ := exists_busEvent hmem
    exact exec_uninitialized he hf h0
  · obtain ⟨-, hinit, -⟩ := initConfiguresOnce
    obtain ⟨-, hagain, -⟩ := hinit s
    exact hagain hf h1
  · obtain ⟨hr, -⟩ := (exec_leaves h).raises hf ht
    exact hr.init_of_framing
  · exact hb (step_raises h ht).busy_of_unlatchedRead
  · exact (step_raises h ht).host_of_resUnwritten

/-- Settles O38: no faulting step is a stop completion, the one step that changes a register. -/
theorem faultingStepWritesFaultOnly : Obligations.FaultingStepWritesFaultOnly := by
  intro s t f h ht
  have hr := step_raises h ht
  obtain ⟨hblock, hhpc⟩ := hr.writes
  refine ⟨hblock, hhpc, fun a => ?_⟩
  rcases (step_leaves h).2.regs with hsame | ⟨-, hb, -⟩
  · rw [hsame]
  · exact absurd hb hr.busy_ne_stopDelay

end

section
/-! SUPPORT. The step in which a signalling bus ends its wait (spec/40_bus_transport.md R104, R109), and the state reset
leaves (spec/70_reset_and_hazards.md R240). -/

namespace Sys2Proof.Machine

variable {s : State}

/-- A write completion keeps every register of the slave: a byte moves its pointer alone (log entry 12). -/
theorem writeCompletion_chip_reg (s : State) (o : List BusEvent) :
    (if s.env = .reference then s.chip.afterByte o else s.chip).reg = s.chip.reg := by
  split_ifs
  · exact Chip.afterByte_reg _ _
  · rfl

/-- Where the bus signals, its wait ends in one step: of the block BUSY alone moves, and no register of the slave. -/
theorem step_of_signalled (hf : s.fault = none) (hb : s.busy = .startWait ∨ s.busy = .txWait)
    (hc : s.busCompletes = true) :
    ∃ c : Chip, step s = .next { s with busy := .none, draws := s.draws + 1, chip := c } ∧ c.reg = s.chip.reg ∧
      (s.busy = .startWait ∨ s.env ≠ .reference → c = s.chip) := by
  rcases hb with hb | hb
  · refine ⟨s.chip, ?_, rfl, fun _ => rfl⟩
    rw [startCompletionAwaitsBus s hf hb, if_pos hc]
  · obtain ⟨hstep, -⟩ := writeCompletionIgnoresAck s hf hb
    refine ⟨_, hstep.trans (congrArg _ (if_pos hc)), writeCompletion_chip_reg s _, fun hother => if_neg ?_⟩
    exact hother.resolve_left (by simp [hb])

/-- At reset nothing has happened: no event, no wait, no fault and no latched byte. -/
theorem State.reset_inv : State.reset.Inv where
  phase_eq := rfl
  framed := rfl
  quiet _ := ⟨rfl, rfl, rfl⟩
  latched := nofun
  wait := trivial
  fault := State.faultFits_of_no_fault rfl

end Sys2Proof.Machine
end

section
/-! SUPPORT. The statements about reset and about a responsive bus (spec/70_reset_and_hazards.md). -/

open Sys2Proof Sys2Proof.Machine

/-- Settles O26: the run to the first signal moves only the draw counter, and the step after it ends the wait. -/
theorem responsiveBusEndsWaits : Obligations.ResponsiveBusEndsWaits := by
  intro s hf hb hresponsive
  obtain ⟨n, hwait, hc⟩ := hresponsive.reaches_signal hf hb
  obtain ⟨c, hstep, hreg, hsame⟩ := step_of_signalled (s := { s with draws := n }) hf hb hc
  exact ⟨n + 1, c, hwait.trans (.of_step hstep), hreg, hsame⟩

/-- Settles O39: the values State.reset writes out; no fault shows as code 0 on the port. -/
theorem resetLeavesTheSpecsValues : Obligations.ResetLeavesTheSpecsValues :=
  ⟨rfl, rfl, rfl, rfl, rfl, rfl, rfl, State.faultPort_of_no_fault rfl, rfl⟩

/-- Settles O40: reset meets each clause of the invariant, and the register memory it leaves lists no register. -/
theorem resetMeetsInvariant : Obligations.ResetMeetsInvariant := ⟨State.reset_inv, rfl⟩

end

section
/-! SUPPORT. A run that has ended (spec/70_reset_and_hazards.md R251): what its later steps leave. -/

namespace Sys2Proof.Machine

variable {s t u : State}

/-! ## The end of a run -/

theorem State.runEnded_iff :
    s.runEnded = true ↔ (∀ x ∈ s.host, x.issues = false) ∧ s.busy = .none ∧ s.fault = none := by
  simp [State.runEnded, State.ready_iff, and_assoc]

theorem host_ne_issue_cons {host : List HostStep} (h : ∀ x ∈ host, x.issues = false) (w : CommandWord)
    (rest : List HostStep) : host ≠ .issue w :: rest := by
  rintro rfl
  cases h (.issue w) List.mem_cons_self

/-- A run that has ended after `n` steps has the observation of the state found then. -/
theorem observationAfter_of_ended {n : Nat} (hrun : runFor n s = .next t) (hended : t.runEnded = true) :
    observationAfter n s = some t.observation := by
  rw [observationAfter, hrun]
  exact if_pos hended

/-! ## The steps after the end -/

/-- With no host step left the block waits for a command (log entry 9). -/
theorem step_of_no_host (hf : s.fault = none) (hb : s.busy = .none) (hh : s.host = []) : step s = .next s := by
  rw [step_of_idle hf hb, hostStep, hh]

theorem runFor_of_step_eq_self (h : step s = .next s) (n : Nat) : runFor n s = .next s := by
  induction n with
  | zero => rfl
  | succ n ih => rw [runFor_of_step h, ih]

/-- `t` is a state the ended run of `s` can lead to: no command is left or in flight, and what is observed stays. A
fault may have been raised. -/
structure State.RestsAt (s t : State) : Prop where
  host : ∀ x ∈ t.host, x.issues = false
  busy : t.busy = .none
  observation : t.observation = s.observation
  hpc : t.hpc = s.hpc

/-- Where no command is left and none is in flight, a step takes at most a result read (60_exceptions R213). -/
theorem State.RestsAt.step (h : s.RestsAt t) (hs : step t = .next u) : s.RestsAt u := by
  obtain ⟨hhost, hbusy, hobs, hhpc⟩ := h
  have htail : ∀ x ∈ t.host.tail, x.issues = false := fun x hx => hhost x (List.mem_of_mem_tail hx)
  cases (step_leaves hs).2 with
  | idle => exact ⟨hhost, hbusy, hobs, hhpc⟩
  | resultRead | resultUnwritten => exact ⟨htail, hbusy, hobs, hhpc⟩
  | illegal w rest _ _ hh | command w rest _ _ _ hh =>
    exact absurd hh (host_ne_issue_cons hhost w rest)
  | waits hb => rcases hb with hb | hb <;> cases hbusy.symm.trans hb
  | initDone hb | startDone hb | writeDone hb | readFresh hb | readStale hb | readUnlatched hb | stopDone hb =>
    cases hbusy.symm.trans hb

/-! ## The steps after the end, with a result written -/

/-- A pending result read leaves the host's list and nothing else (60_exceptions R213). -/
theorem step_of_ended (hended : s.runEnded = true) (hv : s.resv = true) :
    step s = .next { s with host := s.host.tail } := by
  obtain ⟨hreads, hb, hf⟩ := State.runEnded_iff.1 hended
  cases hh : s.host with
  | nil => rw [step_of_no_host hf hb hh, List.tail_nil, ← hh]
  | cons x rest =>
    cases x with
    | issue w => exact absurd hh (host_ne_issue_cons hreads w rest)
    | readResult =>
      rw [step_of_readResult hf hb hh, readResult_of_written (s := { s with host := rest }) hv, List.tail_cons]

theorem State.runEnded_drop (hended : s.runEnded = true) (n : Nat) :
    ({ s with host := s.host.drop n } : State).runEnded = true := by
  obtain ⟨hreads, hb, hf⟩ := State.runEnded_iff.1 hended
  exact State.runEnded_iff.2 ⟨fun x hx => hreads x (List.mem_of_mem_drop hx), hb, hf⟩

theorem runFor_of_ended (hended : s.runEnded = true) (hv : s.resv = true) (n : Nat) :
    runFor n s = .next { s with host := s.host.drop n } := by
  induction n with
  | zero => rfl
  | succ n ih =>
    have hstep := step_of_ended (s.runEnded_drop hended n) hv
    rw [runFor_add ih 1, runFor_of_step hstep, runFor_zero, List.tail_drop]

end Sys2Proof.Machine
end

section
/-! SUPPORT. The statements about an ended run (spec/70_reset_and_hazards.md R251), the slave's register memory (log
entry 21) and the wire (spec/40_bus_transport.md R115). -/

open Sys2Proof Sys2Proof.Machine

/-- Settles O11: what a step keeps in an ended run, every number of steps keeps; with a result written the pending reads
leave the list one by one, and with no step left the state steps to itself. -/
theorem endedRunStaysAsItIs : Obligations.EndedRunStaysAsItIs := by
  intro s hended n
  obtain ⟨hreads, hb, hf⟩ := State.runEnded_iff.1 hended
  refine ⟨fun t hrun => ?_, fun hv => ?_, fun hh => ?_⟩
  · have hrest : s.RestsAt t :=
      State.Reaches.keeps (fun _ _ => State.RestsAt.step) ⟨n, hrun⟩ ⟨hreads, hb, rfl, rfl⟩
    exact ⟨hrest.observation, hrest.hpc, hrest.busy.trans hb.symm⟩
  · have hrun := runFor_of_ended hended hv n
    exact ⟨hrun, observationAfter_of_ended (t := { s with host := s.host.drop n }) hrun (s.runEnded_drop hended n)⟩
  · have hrun := runFor_of_step_eq_self (step_of_no_host hf hb hh) n
    exact ⟨hrun, observationAfter_of_ended hrun hended⟩

/-- Settles O42: a stop completion alone changes the register memory, and what it writes is canonical. -/
theorem stepKeepsRegisterMemoryCanonical : Obligations.StepKeepsRegisterMemoryCanonical := by
  intro s t hwf h
  rcases (step_leaves h).2.regs with hsame | ⟨-, -, hstop⟩
  · rwa [hsame]
  · rw [hstop]
    exact Chip.afterStop_wf _ hwf

/-- Settles O59: the wire items of each event, put together in the order of the trace. -/
theorem wireProjectionOfTrace : Obligations.WireProjectionOfTrace :=
  ⟨fun _ _ => ⟨rfl, rfl, rfl, rfl, rfl⟩, fun _ => rfl, fun _ _ _ => List.flatMap_append,
    fun _ _ => List.flatMap_singleton ..⟩

end
